-- ==== Sys2Proof/Word.lean ====
section
/-! DEFINITION. The bit-vector types of the block (R7, R8: ADDR_W = LEN_W = 32, DIV_W = 16, one-byte fields). -/

namespace Sys2Proof

/-- One byte: SLA, DAT, STAT, one cell of buffer memory (R7, "one-byte data phases"). -/
abbrev Byte := BitVec 8

/-- One 32-bit word: a register-window access (R15), a buffer address (ADDR_W), a length (LEN_W), a frequency (R20). -/
abbrev Word := BitVec 32

/-- A divisor register SCLH or SCLL (DIV_W = 16, R38). -/
abbrev Divisor := BitVec 16

/-- The two-bit select ACT (R39). -/
abbrev Select := BitVec 2

end Sys2Proof
end

