-- ==== Sys2Proof/Config.lean ====
section
/-! DEFINITION. What one run is given from outside the block: the agents (R5), the answers of the bus environment
(R117), the OPEN parameters (R7) and the free values. A free value is an `opaque` constant: nothing in Lean can compute
it, so a theorem about it holds for every value it could have. -/

namespace Sys2Proof

/-- The agents that take steps (R5, R10). The fourth agent of R5, the bus environment, is an oracle: it takes no step of
its own and answers inside a controller step (R117). -/
inductive Agent where
  | host
  | engine
  | controller
  deriving DecidableEq, Repr, Inhabited

/-- The acknowledge bit that follows a byte on the bus (R40). -/
inductive Ack where
  | ack
  | nack
  deriving DecidableEq, Repr, Inhabited

/-- The environment's answer to `env.tx(b)` (R117): ACK, NACK or ARB. -/
inductive TxAnswer where
  | reply (a : Ack)
  | arb
  deriving DecidableEq, Repr, Inhabited

/-- The environment's answer to `env.rx()` (R117): a byte, or arbitration lost (R125 ignores the byte then). -/
inductive RxAnswer where
  | byte (b : Byte)
  | arb
  deriving DecidableEq, Repr, Inhabited

/-- A run of existing buffer-memory byte addresses: `base`, ..., `base + size - 1`. MEM (R7, R47) is a list of these. -/
structure Region where
  base : Nat
  size : Nat
  deriving DecidableEq, Repr, Inhabited

namespace Config

/-- ADDR_W (R7, D9): buffer addresses lie below `2 ^ addrW`. -/
def addrW : Nat := 32

/-- DIV_W (R7, D9): a divisor is representable below `2 ^ divW`. -/
def divW : Nat := 16

/-- BASE (R7, R14): the address of the register window. OPEN. -/
opaque base : Word

/-- PCLK_HZ (R7): the input clock that the host programs into PCLK. OPEN. -/
opaque pclkHz : Word

/-- BUS_HZ (R7): the bus frequency that the host programs into BUSF. OPEN. -/
opaque busHz : Word

/-- MEM (R7, R47) as it is at launch: the existing buffer bytes. OPEN. -/
opaque launchMem : List Region

/-- The draw that DAT holds at reset (R37, R45, D43). -/
opaque launchDat : Byte

/-- The draw that SCLH holds at reset (R38, R45, D43). -/
opaque launchSclh : Divisor

/-- The draw that SCLL holds at reset (R38, R45, D43). -/
opaque launchScll : Divisor

/-- Which agent moves next where the run's own schedule says nothing (R10: any agent may be scheduled). -/
opaque freeAgent : Nat → Agent

/-- The start grant where the run's own answers say nothing (R117, R119). -/
opaque freeGrant : Nat → Bool

/-- The answer to a transmitted byte where the run's own answers say nothing (R117; I17). -/
opaque freeTx : Nat → TxAnswer

/-- The answer to a receive where the run's own answers say nothing (R117; I16). -/
opaque freeRx : Nat → RxAnswer

/-- Whether a STOP or repeated START is allowed while SDRV = 1, where the run's own answers say nothing (R131; I12). -/
opaque freeRelease : Nat → Bool

/-- W_LEN after a byte was stored while W_LEN was 0 (R105, R106): `0 - 1` does not fit, and R8 lets no rule wrap. -/
opaque freeLength : Nat → Word

end Config
end Sys2Proof
end

