-- ==== Sys2Proof/Machine/HostSyntax.lean ====
section
/-! DEFINITION. What the host can do to the block: the register window's map (R14), one host access (R15, R58), and the
host-program notation with its expansions and its encoding as a list of accesses (R73, R74, R75). -/

namespace Sys2Proof.Machine

/-- The sixteen registers of the window (R14). -/
inductive Reg where
  | cmd | status | sla | buf | len | opt | pclk | busf
  | con | stat | dat | sclh | scll | act | wlen | wptr
  deriving DecidableEq, Repr

/-- The registers in the order of the window map (R14). -/
def Reg.all : List Reg :=
  [.cmd, .status, .sla, .buf, .len, .opt, .pclk, .busf, .con, .stat, .dat, .sclh, .scll, .act, .wlen, .wptr]

/-- Byte offset from BASE (R14). -/
def Reg.offset : Reg → Nat
  | .cmd => 0x00
  | .status => 0x04
  | .sla => 0x08
  | .buf => 0x0C
  | .len => 0x10
  | .opt => 0x14
  | .pclk => 0x18
  | .busf => 0x1C
  | .con => 0x20
  | .stat => 0x24
  | .dat => 0x28
  | .sclh => 0x2C
  | .scll => 0x30
  | .act => 0x34
  | .wlen => 0x38
  | .wptr => 0x3C

/-- The access column of R14 has an R: every register but CMD. -/
def Reg.readable : Reg → Bool
  | .cmd => false
  | _ => true

/-- The access column of R14 has a W: CMD and the six RW registers. -/
def Reg.writable : Reg → Bool
  | .cmd | .sla | .buf | .len | .opt | .pclk | .busf => true
  | _ => false

/-- The register at a byte offset, if there is one; a misaligned offset names none (R14, R15). -/
def Reg.ofOffset (off : Nat) : Option Reg :=
  Reg.all.find? fun r => r.offset == off

/-- The address of a register in the host's address space: `BASE + offset` (R14, R73). DESIGN CHOICE
(notes/assumptions/1.md): the address is a 32-bit word and the sum wraps, since the spec gives BASE no bound. -/
def Reg.busAddress (r : Reg) : Word :=
  Config.base + BitVec.ofNat 32 r.offset

/-- How wide a host access to the window is; only a whole word is legal (R15). `wide` is every access of more than 32 bits.
DESIGN CHOICE (notes/assumptions/24.md): these four classes stand for all widths, since R15 and R146 ask only whether an
access is 32 bits wide. -/
inductive AccessWidth where
  | byte
  | half
  | word
  | wide
  deriving DecidableEq, Repr

/-- One host action. Register accesses name the offset from BASE, as the access list of R75 does. `poll` is R73's loop.
The buffer accesses are the host's own path to buffer memory (R46, R58); DESIGN CHOICE (notes/assumptions/23.md): each of
them is one byte, since R46 gives that path no width. -/
inductive HostAccess where
  | read (width : AccessWidth) (offset : Nat)
  | write (width : AccessWidth) (offset : Nat) (value : Word)
  | poll
  | bufRead (addr : Word)
  | bufWrite (addr : Word) (value : Byte)
  deriving DecidableEq, Repr

/-- What a host access gave back: the word read from a register, or the byte read from buffer memory. -/
inductive HostReply where
  | reg (offset : Nat) (value : Word)
  | buf (addr : Word) (value : Byte)
  deriving DecidableEq, Repr

/-- One statement of the host-program notation (R73), the pseudo-statements of R74 included. Values are the numbers the
program writes. -/
inductive HostStmt where
  | wr (r : Reg) (value : Nat)
  | rd (r : Reg)
  | cmdNop
  | cmdConfigure
  | cmdTransfer
  | poll
  | comment (text : String)
  | config (p b : Nat)
  | xfer (sla buf len ts : Nat)
  | write (a7 buf len ts : Nat)
  | read (a7 buf len ts : Nat)
  | writeRead (a7 wbuf wlen rbuf rlen : Nat)
  deriving DecidableEq, Repr

/-- `WR r, v`: a whole-word write at the register's offset (R73, R75). DESIGN CHOICE (notes/assumptions/26.md): R73 speaks of a
32-bit word only, and a number that does not fit one is taken modulo 2^32. -/
def accessWr (r : Reg) (v : Nat) : HostAccess :=
  .write .word r.offset (BitVec.ofNat 32 v)

/-- `XFER sla, buf, len, ts` (R74). -/
def accessesXfer (sla buf len ts : Nat) : List HostAccess :=
  [accessWr .sla sla, accessWr .buf buf, accessWr .len len, accessWr .opt ts, accessWr .cmd 2, .poll]

/-- The accesses that a statement stands for: R73's meanings and R74's expansions, encoded by R75. Every statement has them,
well formed or not. -/
def HostStmt.accesses : HostStmt → List HostAccess
  | .wr r v => [accessWr r v]
  | .rd r => [.read .word r.offset]
  | .cmdNop => [accessWr .cmd 0]
  | .cmdConfigure => [accessWr .cmd 1]
  | .cmdTransfer => [accessWr .cmd 2]
  | .poll => [.poll]
  | .comment _ => []
  | .config p b => [accessWr .pclk p, accessWr .busf b, accessWr .cmd 1, .poll]
  | .xfer sla buf len ts => accessesXfer sla buf len ts
  | .write a7 buf len ts => accessesXfer (2 * a7) buf len ts
  | .read a7 buf len ts => accessesXfer (2 * a7 + 1) buf len ts
  | .writeRead a7 wbuf wlen rbuf rlen =>
    accessesXfer (2 * a7) wbuf wlen 0 ++ accessesXfer (2 * a7 + 1) rbuf rlen 1

/-- A host program as its list of accesses (R75). -/
def encodeProgram (p : List HostStmt) : List HostAccess :=
  p.flatMap HostStmt.accesses

/-- The boot order a host follows before its first TRANSFER (R164), with the OPEN clock values of R7. -/
def bootProgram : List HostStmt :=
  [.config Config.pclkHz.toNat Config.busHz.toNat]

/-- One hexadecimal digit, capitals. -/
def hexDigit (n : Nat) : Char :=
  if n < 10 then Char.ofNat (48 + n) else Char.ofNat (55 + n)

/-- `k` hexadecimal digits of `n`, the most significant first. -/
def hexDigits : Nat → Nat → List Char
  | 0, _ => []
  | k + 1, n => hexDigits k (n / 16) ++ [hexDigit (n % 16)]

/-- The line R75 writes for one register access: `W <offset> <value as 8 hex digits>` or `R <offset>`. The host's own
buffer accesses are no part of the notation and have no line. -/
def HostAccess.line : HostAccess → Option (List Char)
  | .read .word off => some (['R', ' ', '0', 'x'] ++ hexDigits 2 off)
  | .write .word off v =>
    some (['W', ' ', '0', 'x'] ++ hexDigits 2 off ++ [' ', '0', 'x'] ++ hexDigits 8 v.toNat)
  | .poll => some (['R', ' ', '0', 'x'] ++ hexDigits 2 Reg.status.offset)
  | _ => none

end Sys2Proof.Machine
end

