-- ==== Sys2Proof/Syntax.lean ====
section
/-! DEFINITION. The instructions of the block, one constructor for each row of spec/opcode_table.json (R1: the two host
commands and the eleven phase codes; the table adds the NOP command and the reserved command). -/

namespace Sys2Proof

/-- One decoded code. A command carries bits [31:2] of the word written to CMD: R66 ignores them, and they are kept so
that a fault can record the whole word (R146, code 3) and no bit of an encoding is lost. -/
inductive Instr where
  /-- CMD op 0b00 (R89). -/
  | nop (ignored : BitVec 30)
  /-- CMD op 0b01 (R77). -/
  | configure (ignored : BitVec 30)
  /-- CMD op 0b10 (R81, R82). -/
  | transfer (ignored : BitVec 30)
  /-- CMD op 0b11 (R71). -/
  | cmdReserved (ignored : BitVec 30)
  /-- Phase 0x08 (R96). -/
  | started
  /-- Phase 0x10 (R97). -/
  | repeatStarted
  /-- Phase 0x18 (R98). -/
  | addressWriteAcked
  /-- Phase 0x20 (R99). -/
  | addressWriteNacked
  /-- Phase 0x28 (R100). -/
  | dataWriteAcked
  /-- Phase 0x30 (R101). -/
  | dataWriteNacked
  /-- Phase 0x38 (R102). -/
  | arbitrationLost
  /-- Phase 0x40 (R103). -/
  | addressReadAcked
  /-- Phase 0x48 (R104). -/
  | addressReadNacked
  /-- Phase 0x50 (R105). -/
  | dataReadAcked
  /-- Phase 0x58 (R106). -/
  | dataReadNacked
  deriving DecidableEq, Repr

end Sys2Proof
end

