-- ==== Sys2Proof/WellFormed.lean ====
section
/-! DEFINITION. Well-formedness: of an instruction, of a host access against the window's access rules (R15, R53), and of
a host-program statement (R62, R73, R74). -/

namespace Sys2Proof

/-- Every term of `Instr` is well formed: each operand has exactly the width of its field (R61, R66, R72), so there is
nothing left to check. One line per constructor, so that a new one cannot slip past. -/
def Instr.wellFormed : Instr → Bool
  | .nop _ => true
  | .configure _ => true
  | .transfer _ => true
  | .cmdReserved _ => true
  | .started => true
  | .repeatStarted => true
  | .addressWriteAcked => true
  | .addressWriteNacked => true
  | .dataWriteAcked => true
  | .dataWriteNacked => true
  | .arbitrationLost => true
  | .addressReadAcked => true
  | .addressReadNacked => true
  | .dataReadAcked => true
  | .dataReadNacked => true

namespace Machine

/-- The window's access rules (R15): a whole word, at the offset of a register, in a direction its access column has.
A poll reads STATUS; a buffer access goes by another path. -/
def HostAccess.wellFormed : HostAccess → Bool
  | .read w off => w == .word && (Reg.ofOffset off).any Reg.readable
  | .write w off _ => w == .word && (Reg.ofOffset off).any Reg.writable
  | .poll => true
  | .bufRead _ => true
  | .bufWrite _ _ => true

/-- A number that one 32-bit word holds (R73; a larger one is ill formed by the model's choice, notes/assumptions/26.md). -/
def fitsWord (n : Nat) : Bool := n < 2 ^ 32

/-- A statement that a host has a use for. DESIGN CHOICE (notes/assumptions/26.md): R73 and R74 bound no operand, and these
bounds are the model's own, taken from what the registers hold. Values fit the word that is written, an address byte fits SLA
(R16), a device address has seven bits (R62), a trailing-stop operand is one bit (R19), `WR` names a writable register and
`RD` a readable one (R15). A statement outside them still has its accesses (`HostStmt.accesses`) and they have their effect:
`WR SLA, 0x1A5` stores 0xA5 (R15, R16), `RD CMD` raises BadRegisterAccess. -/
def HostStmt.wellFormed : HostStmt → Bool
  | .wr r v => r.writable && fitsWord v
  | .rd r => r.readable
  | .cmdNop => true
  | .cmdConfigure => true
  | .cmdTransfer => true
  | .poll => true
  | .comment _ => true
  | .config p b => fitsWord p && fitsWord b
  | .xfer sla buf len ts => sla < 256 && fitsWord buf && fitsWord len && ts < 2
  | .write a7 buf len ts => a7 < 128 && fitsWord buf && fitsWord len && ts < 2
  | .read a7 buf len ts => a7 < 128 && fitsWord buf && fitsWord len && ts < 2
  | .writeRead a7 wbuf wlen rbuf rlen =>
    a7 < 128 && fitsWord wbuf && fitsWord wlen && fitsWord rbuf && fitsWord rlen

end Machine
end Sys2Proof
end

