-- ==== Sys2Proof/Decode.lean ====
section
/-! DEFINITION. Decoding and encoding (R61, R64 to R66, R69 to R72). The block has two decoders: the CMD decoder, which a
host write to CMD feeds, and the phase decoder, which STAT feeds while SI = 1. -/

namespace Sys2Proof

/-- The two places a code is decoded at: a word written to CMD, a byte in STAT (R61). -/
inductive CodeWord where
  | cmd (w : Word)
  | phase (c : Byte)
  deriving DecidableEq, Repr

/-- Why a code stands for no instruction. Only a phase code can be reserved as a code (R70): all four values of a
command's `op` are rows of the table, the reserved one included (R66, R71). -/
inductive DecodeReject where
  | reservedPhase (c : Byte)
  deriving DecidableEq, Repr

/-- What a decoder answers. -/
inductive Decoded where
  | instr (i : Instr)
  | reject (r : DecodeReject)
  deriving DecidableEq, Repr

/-- `op` = bits [1:0] of a CMD word (R61, R66). -/
def cmdOp (w : Word) : BitVec 2 := w.extractLsb' 0 2

/-- Bits [31:2] of a CMD word, which no rule reads (R66, D40). -/
def cmdIgnored (w : Word) : BitVec 30 := w.extractLsb' 2 30

/-- The CMD word of an `op` and its ignored bits (R61). -/
def cmdWord (ignored : BitVec 30) (op : BitVec 2) : Word := ignored ++ op

/-- The CMD decoder (R66). -/
def decodeCmd (w : Word) : Instr :=
  match (cmdOp w).toNat with
  | 0 => .nop (cmdIgnored w)
  | 1 => .configure (cmdIgnored w)
  | 2 => .transfer (cmdIgnored w)
  | _ => .cmdReserved (cmdIgnored w)

/-- The phase codes and the handlers they select (R64). -/
def phaseTable : List (Byte × Instr) :=
  [(0x08, .started), (0x10, .repeatStarted), (0x18, .addressWriteAcked), (0x20, .addressWriteNacked),
   (0x28, .dataWriteAcked), (0x30, .dataWriteNacked), (0x38, .arbitrationLost), (0x40, .addressReadAcked),
   (0x48, .addressReadNacked), (0x50, .dataReadAcked), (0x58, .dataReadNacked)]

/-- The eleven codes of R64. -/
def phaseCodes : List Byte := phaseTable.map Prod.fst

/-- STAT while no phase is pending (R36, R64). -/
def noPhase : Byte := 0xF8

/-- The phase decoder: exact match of all eight bits (R69); every other value is reserved (R70). -/
def decodePhase (c : Byte) : Decoded :=
  match phaseTable.lookup c with
  | some i => .instr i
  | none => .reject (.reservedPhase c)

/-- Decoding, total on every code at either place. -/
def decode : CodeWord → Decoded
  | .cmd w => .instr (decodeCmd w)
  | .phase c => decodePhase c

/-- The code of an instruction, written from R64 and R66. -/
def encode : Instr → CodeWord
  | .nop x => .cmd (cmdWord x 0b00)
  | .configure x => .cmd (cmdWord x 0b01)
  | .transfer x => .cmd (cmdWord x 0b10)
  | .cmdReserved x => .cmd (cmdWord x 0b11)
  | .started => .phase 0x08
  | .repeatStarted => .phase 0x10
  | .addressWriteAcked => .phase 0x18
  | .addressWriteNacked => .phase 0x20
  | .dataWriteAcked => .phase 0x28
  | .dataWriteNacked => .phase 0x30
  | .arbitrationLost => .phase 0x38
  | .addressReadAcked => .phase 0x40
  | .addressReadNacked => .phase 0x48
  | .dataReadAcked => .phase 0x50
  | .dataReadNacked => .phase 0x58

/-- The code that an opcode-table word of `nbits` bits stands for. The table numbers both formats from bit 0 and does not
say which place a word belongs to (it gives a command two fixed bits, a phase code eight): a word of at most eight bits
that is one of the eleven phase codes is a phase code, every other word is a CMD word with the bits above it zero. -/
def tableCode (nbits w : Nat) : CodeWord :=
  if nbits ≤ 8 ∧ w < 256 ∧ BitVec.ofNat 8 w ∈ phaseCodes then .phase (BitVec.ofNat 8 w)
  else .cmd (BitVec.ofNat 32 w)

/-- The instruction the decoder reads from an opcode-table word. -/
def decodeTableWord (nbits w : Nat) : Option Instr :=
  match decode (tableCode nbits w) with
  | .instr i => some i
  | .reject _ => none

/-- `SLA = {addr7, dir}` (R62). -/
def slaByte (addr7 : BitVec 7) (dir : BitVec 1) : Byte := addr7 ++ dir

/-- The seven-bit device address, bits [7:1] (R62). -/
def slaAddr (b : Byte) : BitVec 7 := b.extractLsb' 1 7

/-- The direction bit, bit 0: true is a read (R62). -/
def slaDir (b : Byte) : Bool := b.getLsbD 0

/-- `idx` = bits [7:3] of a phase code (R61, R65). -/
def phaseIdx (c : Byte) : BitVec 5 := c.extractLsb' 3 5

end Sys2Proof
end

