-- ==== Sys2Proof/Machine/State.lean ====
section
/-! DEFINITION. The state of the block and of the agents around it: the seven groups of R13, then the launch parameter
MEM, the host and its program, the environment's answers and the schedule. The ways a step can stop are declared first. -/

namespace Sys2Proof.Machine

/-- The model faults (R146), each with the information R146 records. A fault is final: its step writes nothing, no agent
moves again (R147). All are safe: the machine stops where the spec gives no behaviour. -/
inductive Fault where
  /-- Raised by a host access to the register window that R15 does not allow; records the offset. Safe. -/
  | badRegisterAccess (offset : Nat)
  /-- Raised by a host write to CMD or to an RW register while BUSY = 1 (R23, R76); records the offset. Safe. -/
  | hostBusyViolation (offset : Nat)
  /-- Raised by the reserved command (R71); records the CMD word. Safe. -/
  | illegalCommand (word : Word)
  /-- Raised by CONFIGURE with BUSF = 0 or a divisor that is not representable (R78, R79); records the divisor. Safe. -/
  | configInvalid (divisor : Nat)
  /-- Raised by CONFIGURE on a held bus (R85). Safe. -/
  | configWhileHeld
  /-- Raised by TRANSFER's issue check (R82) and by an engine access outside the window or MEM (R49, R50); records the
  buffer address. Safe. -/
  | bufferOverrun (addr : Word)
  /-- Raised by a host access to the transfer window while BUSY = 1 (R58); records the buffer address. Safe. -/
  | bufferConflict (addr : Word)
  /-- Raised by the engine's WAIT step on a reserved phase code (R70, R107); records STAT. Safe. -/
  | unknownPhase (stat : Byte)
  /-- Raised by the controller asked for an action its bus state does not allow (R127); records ACT. Safe. -/
  | controllerMisuse (act : Select)
  deriving DecidableEq, Repr

/-- Why a step has no meaning in this model. -/
inductive Refusal where
  /-- Raised by an arm of `exec` that has no meaning yet; no arm is left without one. Safe. -/
  | notModelled (mnemonic : String)
  /-- Raised by a host access to a buffer address outside MEM (R47: it does not exist; R149: no fault of the block applies
  to it; notes/assumptions/8.md). Safe. -/
  | hostBufferAbsent (addr : Word)
  deriving DecidableEq, Repr

/-- The outcome of one step (R11). -/
abbrev Result (σ : Type) := Host.Outcome σ Fault Refusal

/-- Sequencer states (R25). -/
inductive EngineState where
  | idle
  | start
  | wait
  | term
  | stopWait
  deriving DecidableEq, Repr

/-- Who owns the bus, as this master sees it (R42). -/
inductive Own where
  | free
  | held
  deriving DecidableEq, Repr

/-- The controller's transfer direction (R42). -/
inductive BusMode where
  | none
  | mt
  | mr
  deriving DecidableEq, Repr

/-- The bus events of TRACE (R40). -/
inductive BusEvent where
  | start
  | rstart
  | addr (b : Byte) (a : Ack)
  | txd (b : Byte) (a : Ack)
  | rxd (b : Byte) (a : Ack)
  | arbLost
  | stop
  deriving DecidableEq, Repr

/-- R13 (a): the host request registers (R16 to R20). OPT is its one used bit, TSTOP (R19). -/
structure Request where
  sla : Byte
  buf : Word
  len : Word
  tstop : Bool
  pclk : Word
  busf : Word
  deriving DecidableEq, Repr

/-- R13 (b): the stored bits of STATUS (R22). HELD and TSE are computed from OWN and W_TSTOP. -/
structure Status where
  busy : Bool
  fail : Bool
  cfg : Bool
  deriving DecidableEq, Repr

/-- R13 (c): the engine working registers (R24) and the sequencer state (R25). -/
structure Engine where
  wSla : Byte
  wBeg : Word
  wPtr : Word
  wEnd : Word
  wLen : Word
  wTstop : Bool
  wFail : Bool
  wWarm : Bool
  es : EngineState
  deriving DecidableEq, Repr

/-- The flags of CON (R31). The bits without a name read 0 and nothing writes them. -/
structure Con where
  aa : Bool
  si : Bool
  sto : Bool
  sta : Bool
  en : Bool
  deriving DecidableEq, Repr

/-- R13 (d): the controller registers (R30 to R39). -/
structure Controller where
  con : Con
  stat : Byte
  dat : Byte
  sclh : Divisor
  scll : Divisor
  act : Select
  deriving DecidableEq, Repr

/-- R13 (e): the controller's hidden bus state (R42). `firstTx` is FIRST. -/
structure BusState where
  own : Own
  mode : BusMode
  firstTx : Bool
  sdrv : Bool
  deriving DecidableEq, Repr

/-- R13 (g): buffer memory, the listed bytes at rising addresses. An address not listed reads as `unlistedByte`. -/
abbrev Memory := List Host.Cell

/-- The host (R5): the accesses it has still to make, and what its reads gave, oldest first. -/
structure HostAgent where
  program : List HostAccess
  log : List HostReply
  deriving DecidableEq, Repr

/-- The environment's coming answers, one list for each kind of question (R117), the next answer first. -/
structure BusEnv where
  grants : List Bool
  tx : List TxAnswer
  rx : List RxAnswer
  releases : List Bool
  deriving DecidableEq, Repr

/-- The whole state. `req` to `mem` are the groups (a) to (g) of R13, `memMap` is the parameter MEM (R7), `host`, `env` and
`schedule` are the inputs of a run (R5, R10, R117), and `draws` counts the free values used so far (the model's own). -/
structure State where
  req : Request
  status : Status
  eng : Engine
  ctl : Controller
  bus : BusState
  trace : List BusEvent
  faults : List Fault
  mem : Memory
  memMap : List Region
  host : HostAgent
  env : BusEnv
  schedule : List Agent
  draws : Nat
  deriving DecidableEq, Repr

/-- The launch state (R45, R161) for a set of existing buffer bytes, their contents, and the three draws of D43. -/
def State.launch (memMap : List Region) (mem : Memory) (dat : Byte) (sclh scll : Divisor) : State where
  req := ⟨0, 0, 0, false, 0, 0⟩
  status := ⟨false, false, false⟩
  eng := ⟨0, 0, 0, 0, 0, false, false, false, .idle⟩
  ctl := ⟨⟨false, false, false, false, false⟩, noPhase, dat, sclh, scll, 0⟩
  bus := ⟨.free, .none, false, false⟩
  trace := []
  faults := []
  mem := mem
  memMap := memMap
  host := ⟨[], []⟩
  env := ⟨[], [], [], []⟩
  schedule := []
  draws := 0

/-- The machine right after reset (R45, R161): MEM and the draws are the free values of Config, no byte of buffer memory is
listed, and no input has been placed. -/
def State.reset : State :=
  .launch Config.launchMem [] Config.launchDat Config.launchSclh Config.launchScll

end Sys2Proof.Machine
end

