-- ==== Sys2Proof/Machine/Ops.lean ====
section
/-! DEFINITION. The named operations over memory and registers that the meanings share. -/

namespace Sys2Proof.Machine

/-! ### Buffer memory (R47 to R50) -/

/-- What an existing byte that no cell lists holds (notes/assumptions/7.md). -/
def unlistedByte : Byte := 0

/-- The byte at an address. -/
def Memory.read : Memory → Nat → Byte
  | [], _ => unlistedByte
  | (k, v) :: m, a => if a = k then v else Memory.read m a

/-- Put a byte at an address and keep the canonical form. -/
def Memory.write : Memory → Nat → Byte → Memory
  | [], a, v => if v = unlistedByte then [] else [(a, v)]
  | (k, w) :: m, a, v =>
    if a < k then (if v = unlistedByte then (k, w) :: m else (a, v) :: (k, w) :: m)
    else if a = k then (if v = unlistedByte then m else (a, v) :: m)
    else (k, w) :: Memory.write m a v

/-- The canonical form: addresses strictly rising and below `2 ^ ADDR_W`, no cell equal to what an unlisted byte holds. -/
abbrev Memory.wf (m : Memory) : Prop :=
  m.Pairwise (fun x y => x.1 < y.1) ∧ ∀ c ∈ m, c.1 < 2 ^ Config.addrW ∧ c.2 ≠ unlistedByte

/-- The address is in MEM (R47). -/
def inMem (s : State) (a : Word) : Bool :=
  s.memMap.any fun r => decide (r.base ≤ a.toNat) && decide (a.toNat < r.base + r.size)

/-- The address is in the transfer window `[W_BEG, W_END)` (R48). -/
def inWindow (s : State) (a : Word) : Bool :=
  decide (s.eng.wBeg.toNat ≤ a.toNat) && decide (a.toNat < s.eng.wEnd.toNat)

/-- `MemRead(a, 1)` by the engine (R49). -/
def memRead (s : State) (a : Word) : Except Fault Byte :=
  if inWindow s a && inMem s a then .ok (Memory.read s.mem a.toNat) else .error (.bufferOverrun a)

/-- `MemWrite(a, 1, v)` by the engine (R50). -/
def memWrite (s : State) (a : Word) (v : Byte) : Except Fault State :=
  if inWindow s a && inMem s a then .ok { s with mem := Memory.write s.mem a.toNat v }
  else .error (.bufferOverrun a)

/-! ### ACT (R39) -/

/-- ACT = NONE. -/
def actNone : Select := 0
/-- ACT = TX. -/
def actTx : Select := 1
/-- ACT = RX. -/
def actRx : Select := 2

/-! ### Single writes of engine and controller registers -/

/-- `es <- e` (R9, R25). -/
def setEs (e : EngineState) (s : State) : State := { s with eng := { s.eng with es := e } }

/-- `ACT <- a` (R39). -/
def setAct (a : Select) (s : State) : State := { s with ctl := { s.ctl with act := a } }

/-- `r[DAT] <- b` (R37). -/
def setDat (b : Byte) (s : State) : State := { s with ctl := { s.ctl with dat := b } }

/-- `CON.AA <- v` (R34). -/
def setAa (v : Bool) (s : State) : State := { s with ctl := { s.ctl with con := { s.ctl.con with aa := v } } }

/-- `CON.STA <- v` (R33). -/
def setSta (v : Bool) (s : State) : State := { s with ctl := { s.ctl with con := { s.ctl.con with sta := v } } }

/-- `CON.STO <- v` (R33). -/
def setSto (v : Bool) (s : State) : State := { s with ctl := { s.ctl with con := { s.ctl.con with sto := v } } }

/-- `CON.SI <- 0`; STAT is the no-phase code from then on (R36, R138). -/
def clearSi (s : State) : State :=
  { s with ctl := { s.ctl with stat := noPhase, con := { s.ctl.con with si := false } } }

/-- The controller reports a phase: STAT holds its code and SI = 1, in one step (R36, R116). -/
def enterPhase (code : Byte) (s : State) : State :=
  { s with ctl := { s.ctl with stat := code, con := { s.ctl.con with si := true } } }

/-- `emit(e)`: append to TRACE (R9, R40). -/
def emit (e : BusEvent) (s : State) : State := { s with trace := s.trace ++ [e] }

/-- Write OWN, MODE, FIRST and SDRV together (R42). -/
def setBus (b : BusState) (s : State) : State := { s with bus := b }

/-- The hidden state of a bus this master does not hold (R119, R124, R129 leave it so). -/
def freeBus : BusState := ⟨.free, .none, false, false⟩

/-- The hidden state right after a START or a repeated START (R119, R120). -/
def startedBus : BusState := ⟨.held, .none, true, false⟩

/-! ### The end of a phase handler (R94, R95) -/

/-- What a phase handler ends with: CONTINUE, DONE or FAILED (R94, R95). -/
inductive HandlerOutcome where
  | proceed
  | complete
  | failed
  deriving DecidableEq, Repr

/-- Where the sequencer goes after a handler (R94). -/
def HandlerOutcome.next : HandlerOutcome → EngineState
  | .proceed => .wait
  | .complete => .term
  | .failed => .term

/-- The epilogue of every handler (R94): clear SI, then CONTINUE goes on waiting and the others go to TERM. -/
def epilogue (o : HandlerOutcome) (s : State) : State := setEs o.next (clearSi s)

/-- The failure action `fail()` (R95), with its epilogue. OPT is not touched: the override acts on W_TSTOP. -/
def failTransfer (s : State) : State :=
  epilogue .failed (setAct actNone { s with eng := { s.eng with wTstop := true, wFail := true } })

/-! ### The steps the handlers share -/

/-- R96, R97: put W_SLA in DAT, select TX, clear the pending-start request, go on. -/
def placeAddress (s : State) : State :=
  epilogue .proceed (setSta false (setAct actTx (setDat s.eng.wSla s)))

/-- `W_LEN - 1` (R98, R105). It is exact for W_LEN > 0; R8 lets no rule wrap, so what W_LEN = 0 gives is a free value. -/
def lengthAfterByte (s : State) : Word :=
  if s.eng.wLen = 0 then Config.freeLength s.draws else s.eng.wLen - 1

/-- `W_PTR <- W_PTR + 1; W_LEN <- W_LEN - 1` (R98, R105). W_PTR is below W_END here, so the sum fits. -/
def countByte (s : State) : State :=
  { s with
    eng := { s.eng with wPtr := s.eng.wPtr + 1, wLen := lengthAfterByte s }
    draws := if s.eng.wLen = 0 then s.draws + 1 else s.draws }

/-- R98, R100: transmit the next byte of the buffer if one remains, else the transfer is complete. -/
def transmitNext (s : State) : Result State :=
  if s.eng.wLen = 0 then .next (epilogue .complete (setAct actNone s))
  else
    match memRead s s.eng.wPtr with
    | .error f => .fault f
    | .ok b => .next (epilogue .proceed (setAct actTx (countByte (setDat b s))))

/-- R105, R106 after the store: count the byte, de-assert AA when one byte remains, complete when none does. -/
def afterStore (s : State) : State :=
  let t := countByte s
  let u := if t.eng.wLen = 1 then setAa false t else t
  if t.eng.wLen = 0 then epilogue .complete (setAct actNone u) else epilogue .proceed (setAct actRx u)

/-- R105, R106: store the received byte at W_PTR and go on or complete. -/
def storeReceived (s : State) : Result State :=
  match memWrite s s.eng.wPtr s.ctl.dat with
  | .error f => .fault f
  | .ok t => .next (afterStore t)

/-- `finish` (R110): the warm-up sets CFG, a TRANSFER sets FAIL; then BUSY = 0 and IDLE. -/
def finish (s : State) : State :=
  if s.eng.wWarm then
    { s with status := { s.status with cfg := true, busy := false }, eng := { s.eng with wWarm := false, es := .idle } }
  else
    { s with status := { s.status with fail := s.eng.wFail, busy := false }, eng := { s.eng with es := .idle } }

/-! ### Inputs: the host's program, the environment's answers, the schedule -/

/-- The host has made its next access. -/
def popHost (s : State) : State := { s with host := { s.host with program := s.host.program.tail } }

/-- The host has read something. -/
def logReply (r : HostReply) (s : State) : State := { s with host := { s.host with log := s.host.log ++ [r] } }

/-- Which agent moves next (R10), and the state with that turn taken: the schedule's head, or a free value. -/
def takeAgent (s : State) : Agent × State :=
  match s.schedule with
  | a :: rest => (a, { s with schedule := rest })
  | [] => (Config.freeAgent s.draws, { s with draws := s.draws + 1 })

/-- `env.start()`: does the environment grant a START now (R117, R119)? -/
def askGrant (s : State) : Bool × State :=
  match s.env.grants with
  | g :: rest => (g, { s with env := { s.env with grants := rest } })
  | [] => (Config.freeGrant s.draws, { s with draws := s.draws + 1 })

/-- `env.tx(b)` (R117). The answers of a run are all those its environment gives to the bytes of that run. -/
def askTx (s : State) : TxAnswer × State :=
  match s.env.tx with
  | a :: rest => (a, { s with env := { s.env with tx := rest } })
  | [] => (Config.freeTx s.draws, { s with draws := s.draws + 1 })

/-- `env.rx()` (R117). -/
def askRx (s : State) : RxAnswer × State :=
  match s.env.rx with
  | a :: rest => (a, { s with env := { s.env with rx := rest } })
  | [] => (Config.freeRx s.draws, { s with draws := s.draws + 1 })

/-- `env.stop()`: may a STOP or a repeated START be made now? It may when SDRV = 0, without asking; when SDRV = 1 the
environment decides (R117, R131). -/
def askRelease (s : State) : Bool × State :=
  if s.bus.sdrv = false then (true, s)
  else
    match s.env.releases with
    | g :: rest => (g, { s with env := { s.env with releases := rest } })
    | [] => (Config.freeRelease s.draws, { s with draws := s.draws + 1 })

/-! ### Model faults (R146, R147) -/

/-- The code of a fault (R146). -/
def Fault.code : Fault → Nat
  | .badRegisterAccess _ => 1
  | .hostBusyViolation _ => 2
  | .illegalCommand _ => 3
  | .configInvalid _ => 4
  | .configWhileHeld => 5
  | .bufferOverrun _ => 6
  | .bufferConflict _ => 7
  | .unknownPhase _ => 8
  | .controllerMisuse _ => 9

/-- Taking a model fault (R147): the one effect is the entry in FAULT. The block has no trap and no return (R151). -/
def recordFault (f : Fault) (s : State) : State := { s with faults := s.faults ++ [f] }

/-- The check of every CMD write (R76): a command while BUSY = 1 is a host violation at CMD's offset. -/
def whenIdle (s : State) (k : State → Result State) : Result State :=
  if s.status.busy then .fault (.hostBusyViolation Reg.cmd.offset) else k s

end Sys2Proof.Machine
end

