-- ==== Sys2Proof/Machine/Controller.lean ====
section
/-! DEFINITION. The bus controller (R116 to R132): start and stop generator, phase multiplexer, bus-condition detector.
The phase codes it reports are those of R64. -/

namespace Sys2Proof.Machine

/-- What the controller is asked to do next (R118), or nothing. -/
inductive BusRequest where
  | nothing
  | stop
  | start
  | transmit
  | receive
  | invalid
  deriving DecidableEq, Repr

/-- The request priority (R118): nothing while EN = 0 (R132) or SI = 1 (R116), then STO, STA and ACT in this order. -/
def busRequest (s : State) : BusRequest :=
  if !s.ctl.con.en || s.ctl.con.si then .nothing
  else if s.ctl.con.sto then .stop
  else if s.ctl.con.sta then .start
  else if s.ctl.act = actTx then .transmit
  else if s.ctl.act = actRx then .receive
  else if s.ctl.act = actNone then .nothing
  else .invalid

/-- The hidden state lets the controller transmit: the address byte of a held bus, or a data byte in MT (R122, R123). -/
def mayTransmit (s : State) : Bool :=
  s.bus.own == .held && (s.bus.firstTx || s.bus.mode == .mt)

/-- The hidden state lets the controller receive (R125). -/
def mayReceive (s : State) : Bool :=
  s.bus.own == .held && !s.bus.firstTx && s.bus.mode == .mr

/-- START on a free bus, if the environment grants it (R119). -/
def startFree (s : State) : State :=
  match askGrant s with
  | (true, t) => enterPhase 0x08 (setBus startedBus (emit .start t))
  | (false, t) => t

/-- Repeated START on a held bus, if nothing blocks it (R120, R131). -/
def startHeld (s : State) : State :=
  match askRelease s with
  | (true, t) => enterPhase 0x10 (setBus startedBus (emit .rstart t))
  | (false, t) => t

/-- STOP on a held bus, if nothing blocks it (R129, R131). SI is not set. -/
def stopHeld (s : State) : State :=
  match askRelease s with
  | (true, t) => setSto false (setBus freeBus (emit .stop t))
  | (false, t) => t

/-- Arbitration loss (R124). -/
def arbitrationLost (s : State) : State :=
  enterPhase 0x38 (setBus freeBus (emit .arbLost s))

/-- The phase an address byte leads to (R64, R122): its direction bit and the acknowledge bit choose. -/
def addressPhase (b : Byte) (a : Ack) : Byte :=
  match slaDir b, a with
  | false, .ack => 0x18
  | false, .nack => 0x20
  | true, .ack => 0x40
  | true, .nack => 0x48

/-- MODE after an address byte (R122). -/
def addressMode (b : Byte) (a : Ack) : BusMode :=
  match slaDir b, a with
  | false, .ack => .mt
  | true, .ack => .mr
  | _, .nack => .none

/-- Transmit of the address byte (R122). -/
def txAddress (s : State) : State :=
  match askTx s with
  | (.arb, t) => arbitrationLost (setAct actNone t)
  | (.reply a, t) =>
    enterPhase (addressPhase s.ctl.dat a)
      (setBus { s.bus with firstTx := false, mode := addressMode s.ctl.dat a }
        (emit (.addr s.ctl.dat a) (setAct actNone t)))

/-- Transmit of a data byte (R123). -/
def txData (s : State) : State :=
  match askTx s with
  | (.arb, t) => arbitrationLost (setAct actNone t)
  | (.reply a, t) =>
    enterPhase (if a = .ack then 0x28 else 0x30) (emit (.txd s.ctl.dat a) (setAct actNone t))

/-- Receive of a data byte (R125): AA is the acknowledge bit, and SDRV remembers whether it was an ACK. -/
def rxData (s : State) : State :=
  match askRx s with
  | (.arb, t) => arbitrationLost (setAct actNone t)
  | (.byte b, t) =>
    let a : Ack := if s.ctl.con.aa then .ack else .nack
    enterPhase (if s.ctl.con.aa then 0x50 else 0x58)
      (setBus { s.bus with sdrv := s.ctl.con.aa } (emit (.rxd b a) (setDat b (setAct actNone t))))

/-- One turn of the controller (R118). Where it has no step, nothing changes (R128, R132). -/
def controllerStep (s : State) : Result State :=
  match busRequest s with
  | .nothing => .next s
  | .stop => .next (if s.bus.own = .held then stopHeld s else setSto false s)
  | .start => .next (if s.bus.own = .held then startHeld s else startFree s)
  | .transmit =>
    if mayTransmit s then .next (if s.bus.firstTx then txAddress s else txData s)
    else .fault (.controllerMisuse s.ctl.act)
  | .receive => if mayReceive s then .next (rxData s) else .fault (.controllerMisuse s.ctl.act)
  | .invalid => .fault (.controllerMisuse s.ctl.act)

end Sys2Proof.Machine
end

