-- ==== Sys2Proof/Machine/Operands.lean ====
section
/-! DEFINITION. The operands of the two commands (R67, R68), the divisor (R78, R79) and the warm-up's operands (R80). -/

namespace Sys2Proof.Machine

/-- The operands of a transfer: the source's `transfer(address, buffer, length, trailingStop)` (R67). -/
structure TransferOperands where
  address : Byte
  buffer : Word
  length : Word
  trailingStop : Bool
  deriving DecidableEq, Repr

/-- TRANSFER's operands, read from the request registers at the issue step (R67). -/
def transferOperands (s : State) : TransferOperands :=
  ⟨s.req.sla, s.req.buf, s.req.len, s.req.tstop⟩

/-- WARMUP_SLA (R7, R80, D11): the write byte of the reserved seven-bit address 0x7F. -/
def warmupSla : Byte := 0xFE

/-- The operands of CONFIGURE's warm-up transfer: length 0, trailing stop 1, an empty window (R48, R77, R80). -/
def warmupOperands : TransferOperands := ⟨warmupSla, 0, 0, true⟩

/-- One past the last buffer byte, as an exact number (R48, R82). -/
def TransferOperands.limit (o : TransferOperands) : Nat := o.buffer.toNat + o.length.toNat

/-- `inputClockHz` (R68). -/
def inputClockHz (s : State) : Nat := s.req.pclk.toNat

/-- `targetBusHz` (R68). -/
def targetBusHz (s : State) : Nat := s.req.busf.toNat

/-- The half-period divisor `(P / B) / 2`, both divisions floored, left to right (R78). -/
def halfPeriod (p b : Nat) : Nat := p / b / 2

/-- `divisor(P, B)` with its checks: B = 0 first, then the range of DIV_W (R78, R79). -/
def divisor (p b : Nat) : Except Fault Nat :=
  if b = 0 then .error (.configInvalid 0)
  else if halfPeriod p b = 0 ∨ 2 ^ Config.divW ≤ halfPeriod p b then .error (.configInvalid (halfPeriod p b))
  else .ok (halfPeriod p b)

end Sys2Proof.Machine
end

