-- ==== Sys2Proof/Machine/Flags.lean ====
section
/-! DEFINITION. The words the host reads: STATUS with its derived bits, CON, STAT and the other registers (R14, R15, R22,
R28, R31, R36, R43), and what a host write stores (R15). -/

namespace Sys2Proof.Machine

/-- Bit `n` of a word, set when the flag is. -/
def flagBit (v : Bool) (n : Nat) : Word := if v then BitVec.twoPow 32 n else 0

/-- STATUS.HELD (R22, R43): 1 exactly when OWN = HELD. -/
def heldFlag (s : State) : Bool := s.bus.own == .held

/-- STATUS.TSE (R22): the effective trailing stop. -/
def tseFlag (s : State) : Bool := s.eng.wTstop

/-- STATUS as the host reads it (R22). -/
def statusWord (s : State) : Word :=
  flagBit s.status.busy 0 ||| flagBit s.status.fail 1 ||| flagBit s.status.cfg 2 ||| flagBit (heldFlag s) 3 |||
    flagBit (tseFlag s) 4

/-- CON as the host reads it (R31). -/
def Con.word (c : Con) : Word :=
  flagBit c.aa 2 ||| flagBit c.si 3 ||| flagBit c.sto 4 ||| flagBit c.sta 5 ||| flagBit c.en 6

/-- STAT as the engine and the host read it: the no-phase code whenever SI = 0 (R36). -/
def statView (s : State) : Byte := if s.ctl.con.si then s.ctl.stat else noPhase

/-- The word a read of a register gives: its used bits, every other bit 0 (R14, R15). CMD is write-only: its read is
refused before this (R21). -/
def readReg (r : Reg) (s : State) : Word :=
  match r with
  | .cmd => 0
  | .status => statusWord s
  | .sla => s.req.sla.setWidth 32
  | .buf => s.req.buf
  | .len => s.req.len
  | .opt => flagBit s.req.tstop 0
  | .pclk => s.req.pclk
  | .busf => s.req.busf
  | .con => s.ctl.con.word
  | .stat => (statView s).setWidth 32
  | .dat => s.ctl.dat.setWidth 32
  | .sclh => s.ctl.sclh.setWidth 32
  | .scll => s.ctl.scll.setWidth 32
  | .act => s.ctl.act.setWidth 32
  | .wlen => s.eng.wLen
  | .wptr => s.eng.wPtr

/-- The request registers after a host write of `v`: the used bits are stored, the others ignored (R15). Only the six RW
registers store; a write to any other never comes here. -/
def writeReq (r : Reg) (v : Word) (q : Request) : Request :=
  match r with
  | .sla => { q with sla := v.setWidth 8 }
  | .buf => { q with buf := v }
  | .len => { q with len := v }
  | .opt => { q with tstop := v.getLsbD 0 }
  | .pclk => { q with pclk := v }
  | .busf => { q with busf := v }
  | .cmd | .status | .con | .stat | .dat | .sclh | .scll | .act | .wlen | .wptr => q

/-- The SCL period in input-clock periods (R134). Timing only: no step reads it. -/
def sclPeriod (s : State) : Nat := s.ctl.sclh.toNat + s.ctl.scll.toNat

end Sys2Proof.Machine
end

