-- ==== Sys2Proof/Machine/Commands.lean ====
section
/-! DEFINITION. The meanings of the four host commands (R76, R77, R81, R82, R89, R71). Each is the atomic step of the CMD
write: the BUSY check first, then the command's own checks, then its issue step (R149). -/

namespace Sys2Proof.Machine

/-- Load the engine's working registers for a transfer and start it (R77, R82). -/
def issueTransfer (o : TransferOperands) (warm : Bool) (s : State) : State :=
  { s with
    status := { s.status with busy := true }
    eng :=
      { wSla := o.address, wBeg := o.buffer, wPtr := o.buffer, wEnd := BitVec.ofNat 32 o.limit, wLen := o.length,
        wTstop := o.trailingStop, wFail := false, wWarm := warm, es := .start } }

/-- CONFIGURE's writes to the controller (R77): both divisors, all of CON cleared and then EN set, ACT, MODE, FIRST and
SDRV cleared. SI = 0 afterwards, so STAT is the no-phase code (R36). DAT and OWN are not written. -/
def configureController (d : Nat) (s : State) : State :=
  { s with
    ctl :=
      { con := ⟨false, false, false, false, true⟩, stat := noPhase, dat := s.ctl.dat,
        sclh := BitVec.ofNat 16 d, scll := BitVec.ofNat 16 d, act := actNone }
    bus := { s.bus with mode := .none, firstTx := false, sdrv := false } }

/-- NOP (R89): nothing changes. -/
def execNop (_ignored : BitVec 30) (s : State) : Result State :=
  whenIdle s fun s => .next s

/-- CONFIGURE (R77): refused on a held bus (R85), then with a bad divisor (R79); else the controller is set up and the
warm-up transfer starts (R80). -/
def execConfigure (_ignored : BitVec 30) (s : State) : Result State :=
  whenIdle s fun s =>
    if s.bus.own = .held then .fault .configWhileHeld
    else
      match divisor (inputClockHz s) (targetBusHz s) with
      | .error f => .fault f
      | .ok d => .next (issueTransfer warmupOperands true (configureController d s))

/-- TRANSFER's issue step (R82): the window must end inside the address space; then the request is copied. -/
def execTransfer (_ignored : BitVec 30) (s : State) : Result State :=
  whenIdle s fun s =>
    if 2 ^ Config.addrW ≤ (transferOperands s).limit then .fault (.bufferOverrun s.req.buf)
    else .next (issueTransfer (transferOperands s) false s)

/-- The reserved command (R71): `IllegalCommand`, recording the CMD word (R146). -/
def execCmdReserved (ignored : BitVec 30) (s : State) : Result State :=
  whenIdle s fun _ => .fault (.illegalCommand (cmdWord ignored 0b11))

end Sys2Proof.Machine
end

