-- ==== Sys2Proof/Machine/Phases.lean ====
section
/-! DEFINITION. The meanings of the eleven phase codes (R96 to R106): each is the handler and the epilogue of R94, which
are one atomic step (R93). -/

namespace Sys2Proof.Machine

/-- STARTED (R96). -/
def execStarted (s : State) : Result State := .next (placeAddress s)

/-- REPEAT-STARTED (R97). -/
def execRepeatStarted (s : State) : Result State := .next (placeAddress s)

/-- ADDRESS-WRITE-ACKED (R98). -/
def execAddressWriteAcked (s : State) : Result State := transmitNext s

/-- ADDRESS-WRITE-NACKED (R99). -/
def execAddressWriteNacked (s : State) : Result State := .next (failTransfer s)

/-- DATA-WRITE-ACKED (R100). -/
def execDataWriteAcked (s : State) : Result State := transmitNext s

/-- DATA-WRITE-NACKED (R101), the last byte's NACK too (R173). -/
def execDataWriteNacked (s : State) : Result State := .next (failTransfer s)

/-- ARBITRATION-LOST (R102). -/
def execArbitrationLost (s : State) : Result State := .next (failTransfer s)

/-- ADDRESS-READ-ACKED (R103): assert AA and receive; W_LEN is not looked at. -/
def execAddressReadAcked (s : State) : Result State :=
  .next (epilogue .proceed (setAct actRx (setAa true s)))

/-- ADDRESS-READ-NACKED (R104). -/
def execAddressReadNacked (s : State) : Result State := .next (failTransfer s)

/-- DATA-READ-ACKED (R105). -/
def execDataReadAcked (s : State) : Result State := storeReceived s

/-- DATA-READ-NACKED (R106). -/
def execDataReadNacked (s : State) : Result State := storeReceived s

end Sys2Proof.Machine
end

