-- ==== Sys2Proof/Machine/Dispatch.lean ====
section
/-! DEFINITION. What each instruction does: one arm per constructor, each one call of a meaning. -/

namespace Sys2Proof.Machine

def exec (i : Instr) (s : State) : Host.Outcome State Fault Refusal :=
  match i with
  | .nop x => Sys2Proof.Machine.execNop x s
  | .configure x => Sys2Proof.Machine.execConfigure x s
  | .transfer x => Sys2Proof.Machine.execTransfer x s
  | .cmdReserved x => Sys2Proof.Machine.execCmdReserved x s
  | .started => Sys2Proof.Machine.execStarted s
  | .repeatStarted => Sys2Proof.Machine.execRepeatStarted s
  | .addressWriteAcked => Sys2Proof.Machine.execAddressWriteAcked s
  | .addressWriteNacked => Sys2Proof.Machine.execAddressWriteNacked s
  | .dataWriteAcked => Sys2Proof.Machine.execDataWriteAcked s
  | .dataWriteNacked => Sys2Proof.Machine.execDataWriteNacked s
  | .arbitrationLost => Sys2Proof.Machine.execArbitrationLost s
  | .addressReadAcked => Sys2Proof.Machine.execAddressReadAcked s
  | .addressReadNacked => Sys2Proof.Machine.execAddressReadNacked s
  | .dataReadAcked => Sys2Proof.Machine.execDataReadAcked s
  | .dataReadNacked => Sys2Proof.Machine.execDataReadNacked s

end Sys2Proof.Machine
end

