-- ==== Sys2Proof/Machine/Engine.lean ====
section
/-! DEFINITION. The engine's steps (R91): START, WAIT, TERM, STOPWAIT. -/

namespace Sys2Proof.Machine

/-- WAIT with SI = 1 (R93): read STAT, decode it and run the handler it selects; a reserved code is a fault (R107). -/
def runPhase (s : State) : Result State :=
  match decode (.phase (statView s)) with
  | .instr i => exec i s
  | .reject (.reservedPhase c) => .fault (.unknownPhase c)

/-- TERM (R108). -/
def termStep (s : State) : State :=
  if s.eng.wTstop then setEs .stopWait (setSto true s) else finish s

/-- The engine has a step (R91). -/
def engineEnabled (s : State) : Bool :=
  match s.eng.es with
  | .idle => false
  | .start => true
  | .wait => s.ctl.con.si
  | .term => true
  | .stopWait => !s.ctl.con.sto

/-- One turn of the engine (R91, R92, R93, R108, R109). Where it has no step, nothing changes. -/
def engineStep (s : State) : Result State :=
  if engineEnabled s then
    match s.eng.es with
    | .idle => .next s
    | .start => .next (setEs .wait (setSta true s))
    | .wait => runPhase s
    | .term => .next (termStep s)
    | .stopWait => .next (finish s)
  else .next s

end Sys2Proof.Machine
end

