-- ==== Sys2Proof/Machine/HostPort.lean ====
section
/-! DEFINITION. The host's side: its accesses to the register window (R14, R15, R23, R76) and to buffer memory (R58), its
poll loop (R73), and how a code of the opcode table is put where the next step decodes it. -/

namespace Sys2Proof.Machine

/-- The register that an access of this width and offset reaches (R15). -/
def accessedReg (w : AccessWidth) (off : Nat) : Option Reg :=
  if w = .word then Reg.ofOffset off else none

/-- A host read of the window (R15): no effect but the word the host gets. -/
def hostRead (w : AccessWidth) (off : Nat) (s : State) : Result State :=
  match accessedReg w off with
  | none => .fault (.badRegisterAccess off)
  | some r =>
    if r.readable then .next (logReply (.reg off (readReg r s)) (popHost s)) else .fault (.badRegisterAccess off)

/-- A host write to the window: R15's checks, then BUSY (R23, R76), then the store, or for CMD the command (R76, R149). -/
def hostWrite (w : AccessWidth) (off : Nat) (v : Word) (s : State) : Result State :=
  match accessedReg w off with
  | none => .fault (.badRegisterAccess off)
  | some r =>
    if !r.writable then .fault (.badRegisterAccess off)
    else if r = .cmd then exec (decodeCmd v) (popHost s)
    else if s.status.busy then .fault (.hostBusyViolation off)
    else .next { popHost s with req := writeReq r v s.req }

/-- `POLL` (R73): read STATUS; the loop ends when BUSY reads 0. -/
def hostPoll (s : State) : State :=
  let t := logReply (.reg Reg.status.offset (statusWord s)) s
  if s.status.busy then t else popHost t

/-- The host may touch this buffer byte (R58); outside MEM there is no byte, and the model has no meaning for it. -/
def hostBuffer (a : Word) (s : State) (k : State → State) : Result State :=
  if s.status.busy && inWindow s a then .fault (.bufferConflict a)
  else if inMem s a then .next (k (popHost s))
  else .refused (.hostBufferAbsent a)

/-- One host access. -/
def hostAccess (a : HostAccess) (s : State) : Result State :=
  match a with
  | .read w off => hostRead w off s
  | .write w off v => hostWrite w off v s
  | .poll => .next (hostPoll s)
  | .bufRead a => hostBuffer a s fun t => logReply (.buf a (Memory.read t.mem a.toNat)) t
  | .bufWrite a v => hostBuffer a s fun t => { t with mem := Memory.write t.mem a.toNat v }

/-- One turn of the host: its next access, or nothing when its program has ended. -/
def hostStep (s : State) : Result State :=
  match s.host.program with
  | [] => .next s
  | a :: _ => hostAccess a s

/-- Put a code where the next step decodes it, and let that agent move next: a command is the host's next access, a phase
code is in STAT with SI = 1 and the engine in WAIT (R76, R93). FAULT is emptied, since a faulted machine takes no step. -/
def placeCode (c : CodeWord) (s : State) : State :=
  match c with
  | .cmd w =>
    { s with
      faults := []
      schedule := .host :: s.schedule
      host := { s.host with program := .write .word Reg.cmd.offset w :: s.host.program } }
  | .phase b =>
    { setEs .wait (enterPhase b s) with
      faults := []
      schedule := .engine :: s.schedule }

end Sys2Proof.Machine
end

