-- ==== Sys2Proof/Machine/Step.lean ====
section
/-! DEFINITION. One step of the machine: one agent's turn (R10, R11). -/

namespace Sys2Proof.Machine

/-- The turn of one agent. -/
def agentStep (a : Agent) (s : State) : Host.Outcome State Fault Refusal :=
  match a with
  | .host => hostStep s
  | .engine => engineStep s
  | .controller => controllerStep s

/-- One step. A machine with a recorded fault has stopped for good (R147). -/
def step (s : State) : Host.Outcome State Fault Refusal :=
  match s.faults with
  | f :: _ => .fault f
  | [] => agentStep (takeAgent s).1 (takeAgent s).2

/-- The state with an opcode-table word where the next step decodes it. -/
def State.withFetchWord (s : State) (nbits w : Nat) : State := placeCode (tableCode nbits w) s

end Sys2Proof.Machine
end

