-- ==== Sys2Proof/Machine/Fairness.lean ====
section
/-! DEFINITION. The steps to which R137 gives weak fairness, and the two waits to which it gives none. Fairness is a premise
on a run, not a rule of the step: `FairRun` of Safety.lean is stated with these. -/

namespace Sys2Proof.Machine

/-- The steps that R137 calls weakly fair: every step of the engine (R91) and six of the controller. R119's START is not one
of them, nor are R120 and R129 while SDRV = 1. -/
inductive FairStep where
  /-- R92. -/
  | start
  /-- R93, with the handler that STAT selects. -/
  | phase
  /-- R108. -/
  | term
  /-- R109. -/
  | stopWait
  /-- R120, with SDRV = 0. -/
  | repeatStart
  /-- R122. -/
  | address
  /-- R123. -/
  | data
  /-- R125. -/
  | receive
  /-- R129, with SDRV = 0. -/
  | stop
  /-- R130. -/
  | stopOnFree
  deriving DecidableEq, Repr

/-- Whose step it is. -/
def FairStep.agent : FairStep → Agent
  | .start | .phase | .term | .stopWait => .engine
  | .repeatStart | .address | .data | .receive | .stop | .stopOnFree => .controller

/-- The step is enabled: the condition its rule gives, on a machine that has not faulted (R147). -/
def FairStep.enabled (f : FairStep) (s : State) : Bool :=
  s.faults.isEmpty &&
    match f with
    | .start => s.eng.es == .start
    | .phase => s.eng.es == .wait && s.ctl.con.si
    | .term => s.eng.es == .term
    | .stopWait => s.eng.es == .stopWait && !s.ctl.con.sto
    | .repeatStart => busRequest s == .start && s.bus.own == .held && !s.bus.sdrv
    | .address => busRequest s == .transmit && mayTransmit s && s.bus.firstTx
    | .data => busRequest s == .transmit && mayTransmit s && !s.bus.firstTx
    | .receive => busRequest s == .receive && mayReceive s
    | .stop => busRequest s == .stop && s.bus.own == .held && !s.bus.sdrv
    | .stopOnFree => busRequest s == .stop && s.bus.own == .free

/-- A START waits for a free bus and the environment's grant (R119); R137 gives it no fairness. -/
def waitsForGrant (s : State) : Bool := busRequest s == .start && s.bus.own == .free

/-- A STOP or a repeated START waits, with SDRV = 1, until the environment allows it (R131); R137 gives it no fairness. -/
def waitsForRelease (s : State) : Bool :=
  (busRequest s == .start || busRequest s == .stop) && s.bus.own == .held && s.bus.sdrv

end Sys2Proof.Machine
end

