-- ==== Sys2Proof/Safety.lean ====
section
/-! DEFINITION. The terms in which claims are made: what a run shows (R12), where a run ends (R147), fair
runs (R137), the invariant of the
fault-free machine (R10, R43, R44, R111, R112, R115, R127, R139), and the schedules and bus events of whole transfers
(R87, R113, R114). -/

namespace Sys2Proof.Machine

/-- What a step leaves behind: the next state, or, where it faults, the same state with the fault recorded (R147). -/
def advance (s : State) : State :=
  match step s with
  | .next t => t
  | .fault f => if s.faults = [] then recordFault f s else s
  | .refused _ => s

/-- The triple of R12: TRACE, buffer memory and STATUS. -/
structure Observation where
  trace : List BusEvent
  mem : Memory
  status : Word
  deriving DecidableEq, Repr

/-- The triple in a state (R12). -/
def observe (s : State) : Observation := ⟨s.trace, s.mem, statusWord s⟩

/-- The access is a command: a word write to CMD (R76). -/
def HostAccess.isCommand : HostAccess → Bool
  | .write .word off _ => off == Reg.cmd.offset
  | _ => false

/-- The access reads STATUS (R73). -/
def HostAccess.readsStatus : HostAccess → Bool
  | .read .word off => off == Reg.status.offset
  | .poll => true
  | _ => false

/-- The point of R12: the next step is the host's read of STATUS, BUSY = 0, and the host has no command left
(notes/assumptions/25.md). -/
def atObservation (s : State) : Bool :=
  s.faults.isEmpty && (takeAgent s).1 == .host && !s.status.busy &&
    match s.host.program with
    | a :: rest => a.readsStatus && !rest.any HostAccess.isCommand
    | [] => false

/-- What a run shows (R12): the triple at that point, if the run comes to it, together with FAULT. -/
structure RunObservation where
  seen : Option Observation
  faults : List Fault
  deriving DecidableEq, Repr

/-- What the first `k` states of the run from `s` show (R12). The run ends at the point of R12. -/
def observeRun : Nat → State → RunObservation
  | 0, s => ⟨none, s.faults⟩
  | k + 1, s => if atObservation s then ⟨some (observe s), s.faults⟩ else observeRun k (advance s)

/-- The event is what a failure comes from: an address or data byte not acknowledged, or arbitration lost (R84, R141). -/
def BusEvent.isFailure : BusEvent → Bool
  | .addr _ .nack => true
  | .txd _ .nack => true
  | .arbLost => true
  | _ => false

/-- The event moves a byte of the buffer (R40). -/
def BusEvent.isData : BusEvent → Bool
  | .txd _ _ => true
  | .rxd _ _ => true
  | _ => false

/-! ### Fair runs (R137, R180) -/

/-- The state of the run from `s` after `n` steps. A run that has stopped stays where it is (R147). -/
def stateAt : Nat → State → State
  | 0, s => s
  | n + 1, s => stateAt n (advance s)

/-- Weak fairness (R137): a fair step that is enabled in every state of the run from some point on is taken after that point,
which is to say that its agent moves. -/
def FairRun (s : State) : Prop :=
  ∀ (f : FairStep) (n : Nat), (∀ m, n ≤ m → f.enabled (stateAt m s) = true) →
    ∃ m, n ≤ m ∧ (takeAgent (stateAt m s)).1 = f.agent

/-! ### The invariant -/

/-- The controller has something to do (R10, R118); its step may still have to wait for the environment. -/
def controllerEnabled (s : State) : Bool := !(busRequest s == .nothing)

/-- What one event does to the ownership of the bus (R139). -/
def BusEvent.owner : BusEvent → Own → Own
  | .start, _ => .held
  | .rstart, _ => .held
  | .arbLost, _ => .free
  | .stop, _ => .free
  | .addr _ _, o => o
  | .txd _ _, o => o
  | .rxd _ _, o => o

/-- Who owns the bus after a trace: the last of START, RSTART, STOP and ARBLOST decides, FREE when there is none (R139). -/
def ownOfTrace (tr : List BusEvent) : Own := tr.foldl (fun o e => e.owner o) .free

/-- The phase invariant (R44): SI = 0 and STAT = 0xF8, or SI = 1 and STAT is one of the eleven codes. -/
def PhaseInv (s : State) : Prop :=
  if s.ctl.con.si then s.ctl.stat ∈ phaseCodes else s.ctl.stat = noPhase

/-- The progress invariant (R115): `W_BEG ≤ W_PTR ≤ W_END` and `(W_PTR - W_BEG) + W_LEN = W_END - W_BEG`. -/
def ProgressInv (s : State) : Prop :=
  s.eng.wBeg.toNat ≤ s.eng.wPtr.toNat ∧ s.eng.wPtr.toNat ≤ s.eng.wEnd.toNat ∧
    (s.eng.wPtr.toNat - s.eng.wBeg.toNat) + s.eng.wLen.toNat = s.eng.wEnd.toNat - s.eng.wBeg.toNat

/-- The bus state in which a phase code is reported (R119 to R125, R133), with the direction bit of the address byte of the
transfer in flight (R63, R112). A code that is not one of the eleven allows nothing. -/
def PhaseFits (code : Byte) (s : State) : Prop :=
  match decodePhase code with
  | .instr .started => s.ctl.con.sta = true ∧ s.bus = startedBus
  | .instr .repeatStarted => s.ctl.con.sta = true ∧ s.bus = startedBus
  | .instr .addressWriteAcked =>
    s.bus.own = .held ∧ s.bus.firstTx = false ∧ s.bus.mode = .mt ∧ slaDir s.eng.wSla = false
  | .instr .addressWriteNacked =>
    s.bus.own = .held ∧ s.bus.firstTx = false ∧ s.bus.mode = .none ∧ slaDir s.eng.wSla = false
  | .instr .dataWriteAcked =>
    s.bus.own = .held ∧ s.bus.firstTx = false ∧ s.bus.mode = .mt ∧ slaDir s.eng.wSla = false
  | .instr .dataWriteNacked =>
    s.bus.own = .held ∧ s.bus.firstTx = false ∧ s.bus.mode = .mt ∧ slaDir s.eng.wSla = false
  | .instr .arbitrationLost => s.bus = freeBus
  | .instr .addressReadAcked =>
    s.bus.own = .held ∧ s.bus.firstTx = false ∧ s.bus.mode = .mr ∧ slaDir s.eng.wSla = true
  | .instr .addressReadNacked =>
    s.bus.own = .held ∧ s.bus.firstTx = false ∧ s.bus.mode = .none ∧ slaDir s.eng.wSla = true
  | .instr .dataReadAcked =>
    s.bus.own = .held ∧ s.bus.firstTx = false ∧ s.bus.mode = .mr ∧ slaDir s.eng.wSla = true
  | .instr .dataReadNacked =>
    s.bus.own = .held ∧ s.bus.firstTx = false ∧ s.bus.mode = .mr ∧ slaDir s.eng.wSla = true
  | _ => False

/-- The invariant of the machine of this spec, from launch through every fault-free step. -/
structure Inv (s : State) : Prop where
  /-- BUSY = 1 exactly while a command is in flight (R22, R25). -/
  busyIff : s.status.busy = true ↔ s.eng.es ≠ .idle
  /-- R44. -/
  phase : PhaseInv s
  /-- R111.1 for SI and ACT, R111.3 for STA: outside WAIT nothing is pending but a stop. -/
  quiet : s.eng.es ≠ .wait → s.ctl.con.si = false ∧ s.ctl.act = actNone ∧ s.ctl.con.sta = false
  /-- R111.4. -/
  stoOnly : s.ctl.con.sto = true → s.eng.es = .stopWait
  /-- A pending start comes with no other request, and with no phase but the start's own (R111.3). -/
  staOnly : s.ctl.con.sta = true → s.ctl.act = actNone ∧ (s.ctl.con.si = true → s.bus = startedBus)
  /-- A reported phase has used up ACT (R126), and the controller is enabled (R116). -/
  siOnly : s.ctl.con.si = true → s.ctl.act = actNone ∧ s.ctl.con.en = true ∧ PhaseFits s.ctl.stat s
  /-- In WAIT with no phase reported, something is requested of the controller (R91, R94). -/
  waiting : s.eng.es = .wait → s.ctl.con.si = false → s.ctl.con.sta = true ∨ s.ctl.act ≠ actNone
  /-- A pending transmit is one the bus state allows (R127), of the address byte or in a write (R112, R121). -/
  transmit : s.ctl.act = actTx →
    s.bus.own = .held ∧ (s.bus.firstTx = true → s.ctl.dat = s.eng.wSla) ∧
      (s.bus.firstTx = false → s.bus.mode = .mt ∧ slaDir s.eng.wSla = false)
  /-- A pending receive is one the bus state allows (R127), in a read (R112). -/
  receive : s.ctl.act = actRx →
    s.bus.own = .held ∧ s.bus.firstTx = false ∧ s.bus.mode = .mr ∧ slaDir s.eng.wSla = true
  /-- ACT = 3 is never written (R39). -/
  noThree : s.ctl.act ≠ 3
  /-- A bus this master does not hold has no mode and no pending first byte (R119, R124, R129). -/
  free : s.bus.own = .free → s.bus = freeBus
  /-- STOPWAIT is reached with the trailing stop on, and a cleared STO means the bus was released (R108, R129, R130). -/
  stopWait : s.eng.es = .stopWait → s.eng.wTstop = true ∧ (s.ctl.con.sto = false → s.bus.own = .free)
  /-- Between commands the bus is held only where no trailing stop was asked for (R43). -/
  idle : s.eng.es = .idle → s.eng.wWarm = false ∧ (s.bus.own = .held → s.eng.wTstop = false)
  /-- A recorded failure has forced the trailing stop (R95). -/
  failForces : s.eng.wFail = true → s.eng.wTstop = true
  /-- While a TRANSFER has met no failure, W_TSTOP is the trailing stop its caller asked for (R82, R84). -/
  caller : s.status.busy = true → s.eng.wWarm = false → s.eng.wFail = false → s.eng.wTstop = s.req.tstop
  /-- A loop that ended without a failure moved every byte (R84). -/
  ended : s.eng.es = .term ∨ s.eng.es = .stopWait → s.eng.wFail = false → s.eng.wLen = 0
  /-- Where the loop ended without a failure, the bus is still held (R84, R108). -/
  termHeld : s.eng.es = .term → s.eng.wFail = false → s.bus.own = .held
  /-- R115. -/
  progress : ProgressInv s
  /-- The warm-up asks for a trailing stop, moves no byte (R80) and runs on an enabled controller (R77). -/
  warm : s.eng.wWarm = true →
    s.eng.wTstop = true ∧ s.eng.wSla = warmupSla ∧ s.eng.wLen = 0 ∧ s.ctl.con.en = true
  /-- Once enabled, the controller has equal, nonzero divisors (R35, R38, R79). -/
  divisors : s.ctl.con.en = true → s.ctl.sclh = s.ctl.scll ∧ s.ctl.scll ≠ 0
  /-- A finished CONFIGURE has enabled the controller (R22, R77). -/
  configured : s.status.cfg = true → s.ctl.con.en = true
  /-- R139. -/
  owner : s.bus.own = ownOfTrace s.trace
  /-- Buffer memory is in canonical form. -/
  memory : Memory.wf s.mem

/-! ### Whole transfers (R87, R113, R114) -/

/-- The turns of a transfer of `n` data bytes from its CMD write to its end when nothing fails: the CMD write, START, the
start condition, the address byte, the data bytes, and the end with a STOP or without one (R83, R108). -/
def transferSchedule (n : Nat) (tstop : Bool) : List Agent :=
  [.host, .engine, .controller, .engine, .controller] ++ (List.replicate n [Agent.engine, .controller]).flatten ++
    [.engine, .engine] ++ (if tstop then [.controller, .engine] else [])

/-- The first event of a transfer (R88): START on a free bus, RSTART on a held one. -/
def startEvent (o : Own) : BusEvent :=
  match o with
  | .free => .start
  | .held => .rstart

/-- The last event of a transfer (R87): a STOP where the trailing stop is on. -/
def stopEvents (tstop : Bool) : List BusEvent := if tstop then [.stop] else []

/-- The events of a write's data bytes (R87): the buffer bytes from `base` on, each ACKed. -/
def writeEvents (m : Memory) (base n : Nat) : List BusEvent :=
  (List.range n).map fun i => .txd (Memory.read m (base + i)) .ack

/-- The acknowledge bit this master returns for byte `i` of a read of `n` bytes (R114). -/
def readAck (n i : Nat) : Ack := if 2 ≤ n ∧ i + 1 = n then .nack else .ack

/-- The events of a read's data bytes (R87, R114). -/
def readEvents (bytes : List Byte) : List BusEvent :=
  bytes.mapIdx fun i b => .rxd b (readAck bytes.length i)

/-- Every byte of `[base, base + n)` exists in MEM (R48, R165). -/
def windowExists (s : State) (base n : Nat) : Prop :=
  ∀ a : Word, base ≤ a.toNat → a.toNat < base + n → inMem s a = true

end Sys2Proof.Machine
end

