-- ==== Sys2Proof/Certificates/Slice0/Obligations.lean ====
section
/-! DEFINITION. The statements about the model, for the provers. Each docstring names the rules it formalises. -/

open Sys2Proof Sys2Proof.Machine

/-! ### Encodings -/

/-- R61, R66, R69, R72: decoding what an instruction encodes to gives it back, with its ignored bits, and every code that
decodes to an instruction is that instruction's code. -/
def Obligations.DecodeAndEncodeAgree : Prop :=
  (∀ i : Instr, i.wellFormed = true → decode (encode i) = .instr i) ∧
  (∀ (w : CodeWord) (i : Instr), decode w = .instr i → encode i = w)

/-- R64, R66, R69, R70: the four commands and the eleven phase codes, written out from the spec's tables, decode to the
instructions they stand for (V20 to V22 give three of the CMD words), and 0x00, 0xF8 and a code with a low bit set are
reserved. -/
def Obligations.SpecCodesDecode : Prop :=
  decode (.cmd 0x00000000#32) = .instr (.nop 0) ∧
  decode (.cmd 0x00000004#32) = .instr (.nop 1) ∧
  decode (.cmd 0x00000001#32) = .instr (.configure 0) ∧
  decode (.cmd 0xFFFFFFFD#32) = .instr (.configure 0x3FFFFFFF) ∧
  decode (.cmd 0x00000002#32) = .instr (.transfer 0) ∧
  decode (.cmd 0x00000003#32) = .instr (.cmdReserved 0) ∧
  decode (.phase 0x08#8) = .instr .started ∧
  decode (.phase 0x10#8) = .instr .repeatStarted ∧
  decode (.phase 0x18#8) = .instr .addressWriteAcked ∧
  decode (.phase 0x20#8) = .instr .addressWriteNacked ∧
  decode (.phase 0x28#8) = .instr .dataWriteAcked ∧
  decode (.phase 0x30#8) = .instr .dataWriteNacked ∧
  decode (.phase 0x38#8) = .instr .arbitrationLost ∧
  decode (.phase 0x40#8) = .instr .addressReadAcked ∧
  decode (.phase 0x48#8) = .instr .addressReadNacked ∧
  decode (.phase 0x50#8) = .instr .dataReadAcked ∧
  decode (.phase 0x58#8) = .instr .dataReadNacked ∧
  decode (.phase 0x00#8) = .reject (.reservedPhase 0x00#8) ∧
  decode (.phase 0xF8#8) = .reject (.reservedPhase 0xF8#8) ∧
  decode (.phase 0x09#8) = .reject (.reservedPhase 0x09#8)

/-! ### The step -/

/-- R10, R76, R93: a step runs the decoded instruction. When the host moves next and its next access is a word write to CMD,
the step is the decoded command in the state with that turn and that access taken. When the engine moves next, in WAIT with
SI = 1 and a code of R64 in STAT, the step is that code's handler in the state with the turn taken. The clauses for a schedule
that has ended are the model's own choice (notes/assumptions/2.md and 19.md), no rule of the spec: a free value chooses the
agent. -/
def Obligations.StepRunsTheDecodedInstruction : Prop :=
  (∀ (s : State) (w : Word) (i : Instr) (rest : List HostAccess),
    s.faults = [] → s.host.program = .write .word 0x00 w :: rest → decode (.cmd w) = .instr i →
    (∀ sch, s.schedule = .host :: sch →
      step s = exec i { s with schedule := sch, host := { s.host with program := rest } }) ∧
    (s.schedule = [] → step s =
      match Config.freeAgent s.draws with
      | .host => exec i { s with draws := s.draws + 1, host := { s.host with program := rest } }
      | a => agentStep a { s with draws := s.draws + 1 })) ∧
  (∀ (s : State) (i : Instr),
    s.faults = [] → s.eng.es = .wait → s.ctl.con.si = true → decode (.phase s.ctl.stat) = .instr i →
    (∀ sch, s.schedule = .engine :: sch → step s = exec i { s with schedule := sch }) ∧
    (s.schedule = [] → step s =
      match Config.freeAgent s.draws with
      | .engine => exec i { s with draws := s.draws + 1 }
      | a => agentStep a { s with draws := s.draws + 1 }))

/-- R107 (with R69, R93 and R146): in WAIT with SI = 1, a code outside the eleven raises UnknownPhase with STAT; the engine
raises it in no other state, and in a fault-free state no step of any other agent raises it. -/
def Obligations.UnknownPhaseCodeStops : Prop :=
  ∀ s : State,
    (s.eng.es = .wait → s.ctl.con.si = true →
      s.ctl.stat ∉ [0x08#8, 0x10#8, 0x18#8, 0x20#8, 0x28#8, 0x30#8, 0x38#8, 0x40#8, 0x48#8, 0x50#8, 0x58#8] →
      engineStep s = .fault (.unknownPhase s.ctl.stat)) ∧
    (∀ c, engineStep s = .fault (.unknownPhase c) →
      s.eng.es = .wait ∧ s.ctl.con.si = true ∧ c = s.ctl.stat ∧
      s.ctl.stat ∉ [0x08#8, 0x10#8, 0x18#8, 0x20#8, 0x28#8, 0x30#8, 0x38#8, 0x40#8, 0x48#8, 0x50#8, 0x58#8]) ∧
    (∀ c, s.faults = [] → step s = .fault (.unknownPhase c) →
      (takeAgent s).1 = .engine ∧ s.eng.es = .wait ∧ s.ctl.con.si = true ∧ c = s.ctl.stat ∧
      s.ctl.stat ∉ [0x08#8, 0x10#8, 0x18#8, 0x20#8, 0x28#8, 0x30#8, 0x38#8, 0x40#8, 0x48#8, 0x50#8, 0x58#8])

/-- R41, R147: a fault changes nothing but FAULT, and the run ends in that state; no step removes an entry. -/
def Obligations.FaultIsFinalAndPrecise : Prop :=
  (∀ (s : State) (f : Fault), s.faults = [] → step s = .fault f →
    advance s = { s with faults := [f] } ∧ step (advance s) = .fault f ∧ advance (advance s) = advance s) ∧
  (∀ s t : State, step s = .next t → t.faults = s.faults)

/-! ### The host's window -/

/-- R15, R54, R73, R75: a word read of a readable register gives its word to the host; a poll reads STATUS, is repeated while
BUSY = 1 and is over when BUSY = 0. Neither changes anything of the block. -/
def Obligations.RegisterReadsOnlyRead : Prop :=
  ∀ (s : State) (rest : List HostAccess),
    (∀ r : Reg, s.host.program = .read .word r.offset :: rest → r ≠ .cmd →
      hostStep s = .next { s with host := ⟨rest, s.host.log ++ [.reg r.offset (readReg r s)]⟩ }) ∧
    (s.host.program = .poll :: rest →
      hostStep s = .next { s with
        host := ⟨if s.status.busy then .poll :: rest else rest, s.host.log ++ [.reg 0x04 (readReg .status s)]⟩ })

/-- R14, R15, R22, R28, R31, R36, R43: the word of each of the fifteen readable registers. HELD is computed from OWN, TSE from
W_TSTOP, STAT is 0xF8 while SI = 0, and every bit without a name reads 0. -/
def Obligations.StatusWordsBitByBit : Prop :=
  ∀ (s : State) (n : Nat),
    (readReg .status s).getLsbD n =
      ((n == 0 && s.status.busy) || (n == 1 && s.status.fail) || (n == 2 && s.status.cfg) ||
        (n == 3 && (s.bus.own == .held)) || (n == 4 && s.eng.wTstop)) ∧
    (readReg .con s).getLsbD n =
      ((n == 2 && s.ctl.con.aa) || (n == 3 && s.ctl.con.si) || (n == 4 && s.ctl.con.sto) ||
        (n == 5 && s.ctl.con.sta) || (n == 6 && s.ctl.con.en)) ∧
    (readReg .stat s).toNat = (if s.ctl.con.si then s.ctl.stat.toNat else 0xF8) ∧
    (readReg .opt s).toNat = (if s.req.tstop then 1 else 0) ∧
    (readReg .sla s).toNat = s.req.sla.toNat ∧ (readReg .dat s).toNat = s.ctl.dat.toNat ∧
    (readReg .sclh s).toNat = s.ctl.sclh.toNat ∧ (readReg .scll s).toNat = s.ctl.scll.toNat ∧
    (readReg .act s).toNat = s.ctl.act.toNat ∧ readReg .wlen s = s.eng.wLen ∧ readReg .wptr s = s.eng.wPtr ∧
    readReg .buf s = s.req.buf ∧ readReg .len s = s.req.len ∧ readReg .pclk s = s.req.pclk ∧
    readReg .busf s = s.req.busf

/-- R15, R149: an access that is not a whole word, not at the offset of a register, a read of CMD, or a write to a read-only
register raises BadRegisterAccess with the offset, before BUSY is looked at. -/
def Obligations.BadRegisterAccessStops : Prop :=
  ∀ (s : State) (w : AccessWidth) (off : Nat) (v : Word) (rest : List HostAccess),
    (s.host.program = .read w off :: rest →
      (w ≠ .word ∨ off % 4 ≠ 0 ∨ 0x3C < off ∨ off = 0x00) → hostStep s = .fault (.badRegisterAccess off)) ∧
    (s.host.program = .write w off v :: rest →
      (w ≠ .word ∨ off % 4 ≠ 0 ∨ off = 0x04 ∨ 0x1C < off) → hostStep s = .fault (.badRegisterAccess off))

/-- R15 to R20: while BUSY = 0, a word write to an RW register stores the used bits, ignores the others and changes nothing
else. -/
def Obligations.RequestWriteStores : Prop :=
  ∀ (s : State) (off : Nat) (v : Word) (rest : List HostAccess),
    s.host.program = .write .word off v :: rest → s.status.busy = false →
    off = 0x08 ∨ off = 0x0C ∨ off = 0x10 ∨ off = 0x14 ∨ off = 0x18 ∨ off = 0x1C →
    ∃ q : Request, hostStep s = .next { s with req := q, host := { s.host with program := rest } } ∧
      q.sla.toNat = (if off = 0x08 then v.toNat % 256 else s.req.sla.toNat) ∧
      q.buf = (if off = 0x0C then v else s.req.buf) ∧
      q.len = (if off = 0x10 then v else s.req.len) ∧
      q.tstop = (if off = 0x14 then decide (v.toNat % 2 = 1) else s.req.tstop) ∧
      q.pclk = (if off = 0x18 then v else s.req.pclk) ∧
      q.busf = (if off = 0x1C then v else s.req.busf)

/-- R23: while BUSY = 1 a write to an RW register raises HostBusyViolation; a read of a register is allowed and has no
effect on the block. -/
def Obligations.BusyRequestWriteStops : Prop :=
  ∀ (s : State) (off : Nat) (v : Word) (rest : List HostAccess), s.status.busy = true →
    (s.host.program = .write .word off v :: rest →
      off = 0x08 ∨ off = 0x0C ∨ off = 0x10 ∨ off = 0x14 ∨ off = 0x18 ∨ off = 0x1C →
      hostStep s = .fault (.hostBusyViolation off)) ∧
    (∀ r : Reg, s.host.program = .read .word r.offset :: rest → r ≠ .cmd →
      ∃ v, hostStep s = .next { s with host := ⟨rest, s.host.log ++ [.reg r.offset v]⟩ }) ∧
    (s.host.program = .poll :: rest →
      ∃ v, hostStep s = .next { s with host := { s.host with log := s.host.log ++ [.reg 0x04 v] } })

/-- R66, R76, R149: every command written while BUSY = 1, NOP and the reserved one too, raises HostBusyViolation at offset
0. Bits [31:2] of a CMD word change nothing: two words with the same `op` make the same host step, unless `op` is the
reserved one, whose fault records the word. -/
def Obligations.CommandWriteReadsBusyAndOp : Prop :=
  (∀ (s : State) (w : Word) (rest : List HostAccess), s.status.busy = true →
    s.host.program = .write .word 0x00 w :: rest →
    hostStep s = .fault (.hostBusyViolation 0x00) ∧
    (∀ i, decode (.cmd w) = .instr i → exec i s = .fault (.hostBusyViolation 0x00))) ∧
  (∀ (s : State) (v w : Word) (rest : List HostAccess), v.toNat % 4 = w.toNat % 4 → w.toNat % 4 ≠ 3 →
    hostStep { s with host := { s.host with program := .write .word 0x00 v :: rest } } =
      hostStep { s with host := { s.host with program := .write .word 0x00 w :: rest } })

/-- R58: while BUSY = 1 a host access to the transfer window raises BufferConflict; every other host access to an existing
byte is made. -/
def Obligations.BorrowedBufferStopsTheHost : Prop :=
  ∀ (s : State) (a : Word) (v : Byte) (rest : List HostAccess),
    (s.status.busy = true → s.eng.wBeg.toNat ≤ a.toNat → a.toNat < s.eng.wEnd.toNat →
      (s.host.program = .bufRead a :: rest → hostStep s = .fault (.bufferConflict a)) ∧
      (s.host.program = .bufWrite a v :: rest → hostStep s = .fault (.bufferConflict a))) ∧
    (¬(s.status.busy = true ∧ s.eng.wBeg.toNat ≤ a.toNat ∧ a.toNat < s.eng.wEnd.toNat) → inMem s a = true →
      (s.host.program = .bufRead a :: rest →
        hostStep s = .next { s with host := ⟨rest, s.host.log ++ [.buf a (Memory.read s.mem a.toNat)]⟩ }) ∧
      (s.host.program = .bufWrite a v :: rest →
        hostStep s =
          .next { s with mem := Memory.write s.mem a.toNat v, host := { s.host with program := rest } }))

/-- The model's own choice (notes/assumptions/8.md), where R47 says the byte does not exist and R149 names no fault for it: a
host access outside MEM is refused by name, unless R58's fault applies. -/
def Obligations.AbsentBufferByteIsRefused : Prop :=
  ∀ (s : State) (a : Word) (v : Byte) (rest : List HostAccess),
    s.status.busy = false ∨ a.toNat < s.eng.wBeg.toNat ∨ s.eng.wEnd.toNat ≤ a.toNat → inMem s a = false →
    (s.host.program = .bufRead a :: rest → hostStep s = .refused (.hostBufferAbsent a)) ∧
    (s.host.program = .bufWrite a v :: rest → hostStep s = .refused (.hostBufferAbsent a))

/-- R47, R57: the byte just written is the byte read, every other byte is as it was, and the memory stays canonical. -/
def Obligations.BufferWriteThenRead : Prop :=
  ∀ (s t : State) (a : Word) (v : Byte) (rest : List HostAccess), Memory.wf s.mem →
    s.host.program = .bufWrite a v :: rest → hostStep s = .next t →
    Memory.read t.mem a.toNat = v ∧ (∀ b, b ≠ a.toNat → Memory.read t.mem b = Memory.read s.mem b) ∧ Memory.wf t.mem

/-! ### The commands -/

/-- R89. -/
def Obligations.NopChangesNothing : Prop :=
  ∀ (x : BitVec 30) (s : State),
    (s.status.busy = false → exec (.nop x) s = .next s) ∧
    (s.status.busy = true → exec (.nop x) s = .fault (.hostBusyViolation 0x00))

/-- R77, R78, R79, R80, R85, R149: CONFIGURE on an idle block. With a free bus and a representable divisor: both divisors,
CON cleared but for EN, ACT and the hidden state cleared, and the warm-up transfer of 0xFE started; DAT, OWN, FAIL and CFG
keep their values. What stops it, in the spec's order: a held bus, BUSF = 0, a divisor out of range. -/
def Obligations.ConfigureIssuesOrStops : Prop :=
  ∀ (x : BitVec 30) (s : State), s.status.busy = false →
    (∀ d, s.bus.own = .free → s.req.busf.toNat ≠ 0 →
      d = s.req.pclk.toNat / s.req.busf.toNat / 2 → 0 < d → d < 65536 →
      exec (.configure x) s = .next { s with
        status := { s.status with busy := true }
        eng :=
          { wSla := 0xFE, wBeg := 0, wPtr := 0, wEnd := 0, wLen := 0, wTstop := true, wFail := false, wWarm := true,
            es := .start }
        ctl :=
          { con := ⟨false, false, false, false, true⟩, stat := 0xF8, dat := s.ctl.dat, sclh := BitVec.ofNat 16 d,
            scll := BitVec.ofNat 16 d, act := 0 }
        bus := ⟨.free, .none, false, false⟩ }) ∧
    (s.bus.own = .held → exec (.configure x) s = .fault .configWhileHeld) ∧
    (s.bus.own = .free → s.req.busf = 0 → exec (.configure x) s = .fault (.configInvalid 0)) ∧
    (∀ d, s.bus.own = .free → s.req.busf ≠ 0 → d = s.req.pclk.toNat / s.req.busf.toNat / 2 → d = 0 ∨ 65536 ≤ d →
      exec (.configure x) s = .fault (.configInvalid d))

/-- R78, R134: the two floor divisions are one by `2 * B`, the bus frequency `P / (2 * d)` is at least B, and exactly B when
`2 * B` divides P. -/
def Obligations.DivisorKeepsTheBusAtOrAboveTarget : Prop :=
  ∀ p b d : Nat, divisor p b = .ok d →
    d = p / (2 * b) ∧ 0 < d ∧ d < 65536 ∧ b * (2 * d) ≤ p ∧ (b * (2 * d) = p ↔ 2 * b ∣ p)

/-- R90: CONFIGURE leaves the same controller registers from any two states with the same PCLK, BUSF and DAT, whatever the
controller held before (an earlier CONFIGURE, AA left on). -/
def Obligations.ConfigureIsIdempotent : Prop :=
  ∀ (x y : BitVec 30) (s t s' t' : State), s.req.pclk = t.req.pclk → s.req.busf = t.req.busf → s.ctl.dat = t.ctl.dat →
    exec (.configure x) s = .next s' → exec (.configure y) t = .next t' →
    s'.ctl = t'.ctl ∧ s'.ctl.con = ⟨false, false, false, false, true⟩ ∧ s'.ctl.sclh = s'.ctl.scll ∧ s'.eng = t'.eng

/-- R48, R67, R82: TRANSFER's issue step on an idle block copies the request, or stops when the window does not end inside
the address space. -/
def Obligations.TransferIssues : Prop :=
  ∀ (x : BitVec 30) (s : State), s.status.busy = false →
    (s.req.buf.toNat + s.req.len.toNat < 2 ^ 32 →
      exec (.transfer x) s = .next { s with
        status := { s.status with busy := true }
        eng :=
          { wSla := s.req.sla, wBeg := s.req.buf, wPtr := s.req.buf, wEnd := s.req.buf + s.req.len,
            wLen := s.req.len, wTstop := s.req.tstop, wFail := false, wWarm := false, es := .start } }) ∧
    (2 ^ 32 ≤ s.req.buf.toNat + s.req.len.toNat → exec (.transfer x) s = .fault (.bufferOverrun s.req.buf))

/-- R71: the reserved command raises IllegalCommand with the CMD word and starts nothing; `op = 0b00` is the NOP. -/
def Obligations.ReservedCommandStops : Prop :=
  ∀ (s : State) (w : Word) (rest : List HostAccess), s.status.busy = false →
    s.host.program = .write .word 0x00 w :: rest →
    (w.toNat % 4 = 3 → hostStep s = .fault (.illegalCommand w)) ∧
    (w.toNat % 4 = 0 → hostStep s = .next { s with host := { s.host with program := rest } }) ∧
    (∀ x : BitVec 30, exec (.cmdReserved x) s = .fault (.illegalCommand (cmdWord x 3))) ∧
    (∀ x : BitVec 30, (cmdWord x 3).toNat = 4 * x.toNat + 3)

/-- R29, R54, R77, R82, R89: what a command leaves alone. -/
def Obligations.CommandFrame : Prop :=
  ∀ (w : Word) (s t : State), exec (decodeCmd w) s = .next t →
    t.req = s.req ∧ t.status.fail = s.status.fail ∧ t.status.cfg = s.status.cfg ∧ t.ctl.dat = s.ctl.dat ∧
    t.bus.own = s.bus.own ∧ t.trace = s.trace ∧ t.faults = s.faults ∧ t.memMap = s.memMap ∧ t.host = s.host ∧
    t.env = s.env ∧ t.schedule = s.schedule ∧ t.draws = s.draws ∧
    (∀ a, Memory.read t.mem a = Memory.read s.mem a) ∧
    (w.toNat % 4 ≠ 1 → t.ctl = s.ctl ∧ t.bus = s.bus) ∧ (w.toNat % 4 = 0 → t = s)

/-! ### The phase handlers -/

/-- R94, R96, R97, R103: the three phases that neither end a transfer nor touch the buffer. STARTED and REPEAT-STARTED put
W_SLA in DAT, select TX, clear STA and SI and go on waiting; ADDRESS-READ-ACKED asserts AA, selects RX, clears SI and goes on
waiting, whatever W_LEN is. Nothing else changes. -/
def Obligations.StartAndReadAckedPhasesProceed : Prop :=
  (∀ (i : Instr) (s : State), i = .started ∨ i = .repeatStarted →
    exec i s = .next { s with
      eng := { s.eng with es := .wait }
      ctl :=
        { s.ctl with dat := s.eng.wSla, act := 1, stat := 0xF8, con := { s.ctl.con with sta := false, si := false } } }) ∧
  (∀ s : State, exec .addressReadAcked s = .next { s with
    eng := { s.eng with es := .wait }
    ctl := { s.ctl with act := 2, stat := 0xF8, con := { s.ctl.con with aa := true, si := false } } })

/-- R49, R94, R98, R100: the two write-ACKED phases. With a byte left that the engine may read, they put it in DAT, advance
W_PTR and W_LEN by exactly one, select TX, clear SI and go on waiting; with no byte left they are done, without touching the
buffer; nothing else changes. With a byte left outside the window or MEM they raise BufferOverrun with W_PTR. -/
def Obligations.WriteAckedSendsEndsOrStops : Prop :=
  ∀ (i : Instr) (s : State), i = .addressWriteAcked ∨ i = .dataWriteAcked →
    (0 < s.eng.wLen.toNat →
      s.eng.wBeg.toNat ≤ s.eng.wPtr.toNat → s.eng.wPtr.toNat < s.eng.wEnd.toNat → inMem s s.eng.wPtr = true →
      ∃ p n : Word, p.toNat = s.eng.wPtr.toNat + 1 ∧ n.toNat + 1 = s.eng.wLen.toNat ∧
        exec i s = .next { s with
          eng := { s.eng with wPtr := p, wLen := n, es := .wait }
          ctl :=
            { s.ctl with dat := Memory.read s.mem s.eng.wPtr.toNat, act := 1, stat := 0xF8,
                         con := { s.ctl.con with si := false } } }) ∧
    (s.eng.wLen = 0 →
      exec i s = .next { s with
        eng := { s.eng with es := .term }
        ctl := { s.ctl with act := 0, stat := 0xF8, con := { s.ctl.con with si := false } } }) ∧
    (s.eng.wLen ≠ 0 →
      s.eng.wPtr.toNat < s.eng.wBeg.toNat ∨ s.eng.wEnd.toNat ≤ s.eng.wPtr.toNat ∨ inMem s s.eng.wPtr = false →
      exec i s = .fault (.bufferOverrun s.eng.wPtr))

/-- R94, R95, R99, R101, R102, R104: the four failure phases force the trailing stop in W_TSTOP, record the failure, drop
the pending action, clear SI and go to TERM; OPT and everything else keep their values. -/
def Obligations.FailurePhasesForceTheStop : Prop :=
  ∀ (i : Instr) (s : State),
    i = .addressWriteNacked ∨ i = .dataWriteNacked ∨ i = .arbitrationLost ∨ i = .addressReadNacked →
    exec i s = .next { s with
      eng := { s.eng with wTstop := true, wFail := true, es := .term }
      ctl := { s.ctl with act := 0, stat := 0xF8, con := { s.ctl.con with si := false } } }

/-- R50, R94, R105, R106: with a byte to come and W_PTR in the window and in MEM, both data-read phases store DAT at W_PTR
and nowhere else, advance W_PTR and W_LEN by exactly one, clear AA exactly when one byte remains, and are done exactly when
none does; nothing else changes. -/
def Obligations.DataReadStoresTheByte : Prop :=
  ∀ (i : Instr) (s : State), i = .dataReadAcked ∨ i = .dataReadNacked → Memory.wf s.mem → 0 < s.eng.wLen.toNat →
    s.eng.wBeg.toNat ≤ s.eng.wPtr.toNat → s.eng.wPtr.toNat < s.eng.wEnd.toNat → inMem s s.eng.wPtr = true →
    ∃ (m : Memory) (p n : Word),
      Memory.read m s.eng.wPtr.toNat = s.ctl.dat ∧
      (∀ a, a ≠ s.eng.wPtr.toNat → Memory.read m a = Memory.read s.mem a) ∧ Memory.wf m ∧
      p.toNat = s.eng.wPtr.toNat + 1 ∧ n.toNat + 1 = s.eng.wLen.toNat ∧
      exec i s = .next { s with
        mem := m
        eng := { s.eng with wPtr := p, wLen := n, es := if n = 0 then .term else .wait }
        ctl :=
          { s.ctl with act := if n = 0 then 0 else 2, stat := 0xF8,
                       con := { s.ctl.con with aa := if n = 1 then false else s.ctl.con.aa, si := false } } }

/-- R50, R105, R106: outside the window or MEM both data-read phases raise BufferOverrun with W_PTR; by the progress
invariant of R115 this is what every byte received with W_LEN = 0 leads to, a zero-length read's first byte among them. -/
def Obligations.DataReadOverrunStops : Prop :=
  ∀ (i : Instr) (s : State), i = .dataReadAcked ∨ i = .dataReadNacked →
    (s.eng.wPtr.toNat < s.eng.wBeg.toNat ∨ s.eng.wEnd.toNat ≤ s.eng.wPtr.toNat ∨ inMem s s.eng.wPtr = false →
      exec i s = .fault (.bufferOverrun s.eng.wPtr)) ∧
    (ProgressInv s → s.eng.wLen = 0 → exec i s = .fault (.bufferOverrun s.eng.wPtr))

/-- The model's own choice (notes/assumptions/9.md), in states that R115 rules out: a byte stored with W_LEN = 0 completes
with a free value in W_LEN, and what R105 computes from W_LEN is computed from it. It holds for every value of the free
value. -/
def Obligations.DataReadWithNoLengthIsFree : Prop :=
  ∀ (i : Instr) (s : State) (n : Word), i = .dataReadAcked ∨ i = .dataReadNacked → s.eng.wLen = 0 →
    s.eng.wBeg.toNat ≤ s.eng.wPtr.toNat → s.eng.wPtr.toNat < s.eng.wEnd.toNat → inMem s s.eng.wPtr = true →
    n = Config.freeLength s.draws →
    exec i s = .next { s with
      mem := Memory.write s.mem s.eng.wPtr.toNat s.ctl.dat
      eng := { s.eng with wPtr := s.eng.wPtr + 1, wLen := n, es := if n = 0 then .term else .wait }
      ctl :=
        { s.ctl with act := if n = 0 then 0 else 2, stat := 0xF8,
                     con := { s.ctl.con with aa := if n = 1 then false else s.ctl.con.aa, si := false } }
      draws := s.draws + 1 }

/-- R19, R29, R46, R94: what the eleven phase handlers leave alone. Only the two data-read phases write buffer memory, and
only the byte at W_PTR. -/
def Obligations.PhaseHandlerFrame : Prop :=
  ∀ (c : Byte) (i : Instr) (s t : State), decode (.phase c) = .instr i → exec i s = .next t →
    t.req = s.req ∧ t.status = s.status ∧ t.bus = s.bus ∧ t.trace = s.trace ∧ t.faults = s.faults ∧
    t.memMap = s.memMap ∧ t.host = s.host ∧ t.env = s.env ∧ t.schedule = s.schedule ∧
    t.eng.wSla = s.eng.wSla ∧ t.eng.wBeg = s.eng.wBeg ∧ t.eng.wEnd = s.eng.wEnd ∧ t.eng.wWarm = s.eng.wWarm ∧
    t.ctl.sclh = s.ctl.sclh ∧ t.ctl.scll = s.ctl.scll ∧ t.ctl.con.en = s.ctl.con.en ∧
    t.ctl.con.sto = s.ctl.con.sto ∧ t.ctl.con.si = false ∧
    (i ≠ .addressReadAcked → i ≠ .dataReadAcked → i ≠ .dataReadNacked → t.ctl.con.aa = s.ctl.con.aa) ∧
    (i ≠ .started → i ≠ .repeatStarted → t.ctl.con.sta = s.ctl.con.sta) ∧
    (∀ a, (i = .dataReadAcked ∨ i = .dataReadNacked → a ≠ s.eng.wPtr.toNat) →
      Memory.read t.mem a = Memory.read s.mem a)

/-! ### The sequencer -/

/-- R91, R92, R108, R109, R110: the engine's own steps. START sets STA and waits, whoever holds the bus; IDLE, a WAIT with
SI = 0 and a STOPWAIT with STO = 1 have no step; that a turn there is then a step that changes nothing is the model's own
choice (notes/assumptions/5.md), no rule of the spec. TERM asks for a STOP where W_TSTOP = 1 and finishes at once where it is 0;
STOPWAIT finishes once STO is 0. A finish sets CFG for the warm-up and FAIL for a TRANSFER, clears BUSY and goes to IDLE. -/
def Obligations.EngineSteps : Prop :=
  ∀ s : State,
    (s.eng.es = .start → engineStep s = .next { s with
      eng := { s.eng with es := .wait }, ctl := { s.ctl with con := { s.ctl.con with sta := true } } }) ∧
    (s.eng.es = .idle ∨ (s.eng.es = .wait ∧ s.ctl.con.si = false) ∨ (s.eng.es = .stopWait ∧ s.ctl.con.sto = true) →
      engineStep s = .next s) ∧
    (s.eng.es = .term → s.eng.wTstop = true → engineStep s = .next { s with
      eng := { s.eng with es := .stopWait }, ctl := { s.ctl with con := { s.ctl.con with sto := true } } }) ∧
    (s.eng.es = .term ∧ s.eng.wTstop = false ∨ s.eng.es = .stopWait ∧ s.ctl.con.sto = false →
      engineStep s = .next { s with
        eng := { s.eng with wWarm := false, es := .idle }
        status :=
          { busy := false
            fail := if s.eng.wWarm then s.status.fail else s.eng.wFail
            cfg := if s.eng.wWarm then true else s.status.cfg } })

/-- R26: the transitions of the sequencer state, from every state of the invariant. -/
def Obligations.SequencerTransitions : Prop :=
  ∀ s t : State, Inv s → step s = .next t → t.eng.es ≠ s.eng.es →
    (s.eng.es = .idle ∧ t.eng.es = .start ∧ (takeAgent s).1 = .host ∧
      ∃ w rest, s.host.program = .write .word 0x00 w :: rest ∧ (w.toNat % 4 = 1 ∨ w.toNat % 4 = 2)) ∨
    ((takeAgent s).1 = .engine ∧
      ((s.eng.es = .start ∧ t.eng.es = .wait) ∨ (s.eng.es = .wait ∧ t.eng.es = .term) ∨
       (s.eng.es = .term ∧ t.eng.es = .stopWait) ∨ (s.eng.es = .term ∧ t.eng.es = .idle) ∨
       (s.eng.es = .stopWait ∧ t.eng.es = .idle)))

/-! ### The controller -/

/-- R117, R119, R120, R131: a pending start. On a free bus a granted one takes the bus and reports 0x08; one that is not
granted is no step. On a held bus it is a repeated START and reports 0x10; with SDRV = 1 it waits until the environment allows
it. STA stays set. That a turn in which the START is not granted, or the repeated START not allowed, is a step that uses up
that answer and changes nothing else is the model's own choice (notes/assumptions/5.md), no rule of the spec. The answer `g`
is the one the run gives, listed or free. -/
def Obligations.StartOrRepeatedStart : Prop :=
  ∀ s : State, s.ctl.con.en = true → s.ctl.con.si = false → s.ctl.con.sto = false → s.ctl.con.sta = true →
    (∀ g u, s.bus.own = .free → askGrant s = (g, u) →
      controllerStep s = .next (
        if g then
          { s with
            env := u.env
            draws := u.draws
            trace := s.trace ++ [.start]
            bus := ⟨.held, .none, true, false⟩
            ctl := { s.ctl with stat := 0x08, con := { s.ctl.con with si := true } } }
        else { s with env := u.env, draws := u.draws })) ∧
    (s.bus.own = .held → s.bus.sdrv = false →
      controllerStep s = .next { s with
        trace := s.trace ++ [.rstart]
        bus := ⟨.held, .none, true, false⟩
        ctl := { s.ctl with stat := 0x10, con := { s.ctl.con with si := true } } }) ∧
    (∀ g u, s.bus.own = .held → s.bus.sdrv = true → askRelease s = (g, u) →
      controllerStep s = .next (
        if g then
          { s with
            env := u.env
            draws := u.draws
            trace := s.trace ++ [.rstart]
            bus := ⟨.held, .none, true, false⟩
            ctl := { s.ctl with stat := 0x10, con := { s.ctl.con with si := true } } }
        else { s with env := u.env, draws := u.draws }))

/-- R122, R123, R124, R126: a transmit. Of the address byte, bit 0 and the answer choose the phase code and MODE; of a data byte
(in MT), ACK reports 0x28 and NACK 0x30; ARB frees the bus and reports 0x38 either way. DAT keeps the byte, ACT goes to
NONE. The answer `a` is the one the run gives, listed or free. -/
def Obligations.TransmitReports : Prop :=
  ∀ (s u : State) (a : TxAnswer),
    s.ctl.con.en = true → s.ctl.con.si = false → s.ctl.con.sto = false → s.ctl.con.sta = false → s.ctl.act = 1 →
    s.bus.own = .held → s.bus.firstTx = true ∨ s.bus.mode = .mt → askTx s = (a, u) →
    ∃ (e : BusEvent) (b : BusState) (c : Byte),
      controllerStep s = .next { s with
        env := u.env
        draws := u.draws
        trace := s.trace ++ [e]
        bus := b
        ctl := { s.ctl with stat := c, act := 0, con := { s.ctl.con with si := true } } } ∧
      (s.bus.firstTx = true →
        (a = .reply .ack → s.ctl.dat.getLsbD 0 = false →
          e = .addr s.ctl.dat .ack ∧ b = ⟨.held, .mt, false, s.bus.sdrv⟩ ∧ c = 0x18) ∧
        (a = .reply .nack → s.ctl.dat.getLsbD 0 = false →
          e = .addr s.ctl.dat .nack ∧ b = ⟨.held, .none, false, s.bus.sdrv⟩ ∧ c = 0x20) ∧
        (a = .reply .ack → s.ctl.dat.getLsbD 0 = true →
          e = .addr s.ctl.dat .ack ∧ b = ⟨.held, .mr, false, s.bus.sdrv⟩ ∧ c = 0x40) ∧
        (a = .reply .nack → s.ctl.dat.getLsbD 0 = true →
          e = .addr s.ctl.dat .nack ∧ b = ⟨.held, .none, false, s.bus.sdrv⟩ ∧ c = 0x48)) ∧
      (s.bus.firstTx = false →
        (a = .reply .ack → e = .txd s.ctl.dat .ack ∧ b = s.bus ∧ c = 0x28) ∧
        (a = .reply .nack → e = .txd s.ctl.dat .nack ∧ b = s.bus ∧ c = 0x30)) ∧
      (a = .arb → e = .arbLost ∧ b = ⟨.free, .none, false, false⟩ ∧ c = 0x38)

/-- R124, R125, R126: a receive in MR. The byte goes to DAT; AA chooses the acknowledge bit, the code (0x50 or 0x58) and
SDRV; ARB leaves DAT, frees the bus and reports 0x38. ACT goes to NONE. The answer `a` is the one the run gives, listed or
free. -/
def Obligations.DataByteReceive : Prop :=
  ∀ (s u : State) (a : RxAnswer),
    s.ctl.con.en = true → s.ctl.con.si = false → s.ctl.con.sto = false → s.ctl.con.sta = false → s.ctl.act = 2 →
    s.bus.own = .held → s.bus.firstTx = false → s.bus.mode = .mr → askRx s = (a, u) →
    ∃ (e : BusEvent) (b : BusState) (c d : Byte),
      controllerStep s = .next { s with
        env := u.env
        draws := u.draws
        trace := s.trace ++ [e]
        bus := b
        ctl := { s.ctl with stat := c, dat := d, act := 0, con := { s.ctl.con with si := true } } } ∧
      (∀ v, a = .byte v → s.ctl.con.aa = true →
        e = .rxd v .ack ∧ b = ⟨.held, .mr, false, true⟩ ∧ c = 0x50 ∧ d = v) ∧
      (∀ v, a = .byte v → s.ctl.con.aa = false →
        e = .rxd v .nack ∧ b = ⟨.held, .mr, false, false⟩ ∧ c = 0x58 ∧ d = v) ∧
      (a = .arb → e = .arbLost ∧ b = ⟨.free, .none, false, false⟩ ∧ c = 0x38 ∧ d = s.ctl.dat)

/-- R118, R129, R130, R131: a pending stop comes before every other request. On a held bus it makes a STOP, with SDRV = 1 only
when the environment allows it; on a bus not held it clears STO and nothing else. SI is never set. That a turn in which the
STOP is not allowed is a step that uses up that answer and changes nothing else is the model's own choice
(notes/assumptions/5.md), no rule of the spec. -/
def Obligations.StopComesFirst : Prop :=
  ∀ s : State, s.ctl.con.en = true → s.ctl.con.si = false → s.ctl.con.sto = true →
    (s.bus.own = .free →
      controllerStep s = .next { s with ctl := { s.ctl with con := { s.ctl.con with sto := false } } }) ∧
    (s.bus.own = .held → s.bus.sdrv = false →
      controllerStep s = .next { s with
        trace := s.trace ++ [.stop]
        bus := ⟨.free, .none, false, false⟩
        ctl := { s.ctl with con := { s.ctl.con with sto := false } } }) ∧
    (∀ g u, s.bus.own = .held → s.bus.sdrv = true → askRelease s = (g, u) →
      controllerStep s = .next (
        if g then
          { s with
            env := u.env
            draws := u.draws
            trace := s.trace ++ [.stop]
            bus := ⟨.free, .none, false, false⟩
            ctl := { s.ctl with con := { s.ctl.con with sto := false } } }
        else { s with env := u.env, draws := u.draws }))

/-- R127: the controller raises ControllerMisuse exactly for an action its bus state does not allow, and records ACT. -/
def Obligations.ControllerMisuseStops : Prop :=
  ∀ (s : State) (a : Select),
    controllerStep s = .fault (.controllerMisuse a) ↔
      a = s.ctl.act ∧ s.ctl.con.en = true ∧ s.ctl.con.si = false ∧ s.ctl.con.sto = false ∧ s.ctl.con.sta = false ∧
      ((s.ctl.act = 1 ∧ (s.bus.own = .free ∨ (s.bus.firstTx = false ∧ s.bus.mode ≠ .mt))) ∨
       (s.ctl.act = 2 ∧ (s.bus.own = .free ∨ s.bus.firstTx = true ∨ s.bus.mode ≠ .mr)) ∨ s.ctl.act = 3)

/-- R30, R40, R116, R138: what a controller turn can write: CON.SI, CON.STO, STAT, DAT, ACT, the hidden bus state and TRACE,
and TRACE by at most one event at its end; SI is only set, STO only cleared, and STAT is written only where SI is set. -/
def Obligations.ControllerFrame : Prop :=
  ∀ s t : State, controllerStep s = .next t →
    t.req = s.req ∧ t.status = s.status ∧ t.eng = s.eng ∧ t.faults = s.faults ∧ t.mem = s.mem ∧
    t.memMap = s.memMap ∧ t.host = s.host ∧ t.schedule = s.schedule ∧
    t.ctl.sclh = s.ctl.sclh ∧ t.ctl.scll = s.ctl.scll ∧ t.ctl.con.en = s.ctl.con.en ∧
    t.ctl.con.sta = s.ctl.con.sta ∧ t.ctl.con.aa = s.ctl.con.aa ∧
    (s.ctl.con.si = true → t.ctl.con.si = true) ∧ (t.ctl.con.sto = true → s.ctl.con.sto = true) ∧
    (t.ctl.stat ≠ s.ctl.stat → s.ctl.con.si = false ∧ t.ctl.con.si = true) ∧
    (t.trace = s.trace ∨ ∃ e, t.trace = s.trace ++ [e])

/-- R126: each transmit and receive step sets ACT to NONE, and the controller writes ACT in no other step. -/
def Obligations.ActIsUsedUp : Prop :=
  ∀ s t : State, controllerStep s = .next t →
    (s.ctl.con.en = true ∧ s.ctl.con.si = false ∧ s.ctl.con.sto = false ∧ s.ctl.con.sta = false ∧
        (s.ctl.act = 1 ∨ s.ctl.act = 2) → t.ctl.act = 0) ∧
    (¬(s.ctl.con.en = true ∧ s.ctl.con.si = false ∧ s.ctl.con.sto = false ∧ s.ctl.con.sta = false ∧
        (s.ctl.act = 1 ∨ s.ctl.act = 2)) → t.ctl.act = s.ctl.act)

/-! ### Invariants and rules of the whole machine -/

/-- R45, R161: the launch state. DAT, SCLH and SCLL are draws, and nothing is said of them. -/
def Obligations.ResetLeaves : Prop :=
  State.reset.req = ⟨0, 0, 0, false, 0, 0⟩ ∧ readReg .status State.reset = 0 ∧
  State.reset.eng = ⟨0, 0, 0, 0, 0, false, false, false, .idle⟩ ∧ readReg .con State.reset = 0 ∧
  readReg .stat State.reset = 0xF8 ∧ State.reset.ctl.stat = 0xF8 ∧ State.reset.ctl.act = 0 ∧
  State.reset.bus = ⟨.free, .none, false, false⟩ ∧ State.reset.trace = [] ∧ State.reset.faults = []

/-- R45, R161: the launch state meets the invariant. -/
def Obligations.ResetMeetsTheInvariant : Prop := Inv State.reset

/-- R10, R22, R43, R44, R84, R95, R111, R112, R115, R127, R139: every step of every agent keeps the invariant. -/
def Obligations.StepKeepsTheInvariant : Prop :=
  ∀ s t : State, Inv s → step s = .next t → Inv t

/-- R10, R116, R128, R132: at most one of the engine and the controller has a step or a request that waits for the environment
(R119, R131), and exactly one has while a command is in flight with EN = 1. The controller has none while EN = 0, while
SI = 1, or with nothing requested. That its turn is then a step that changes nothing is the model's choice
(notes/assumptions/5.md). -/
def Obligations.EngineAndControllerTakeTurns : Prop :=
  (∀ s : State, Inv s → ¬(engineEnabled s = true ∧ controllerEnabled s = true)) ∧
  (∀ s : State, Inv s → s.status.busy = true → s.ctl.con.en = true →
    engineEnabled s = true ∨ controllerEnabled s = true) ∧
  (∀ s : State,
    s.ctl.con.en = false ∨ s.ctl.con.si = true ∨
      (s.ctl.con.sto = false ∧ s.ctl.con.sta = false ∧ s.ctl.act = 0) →
    controllerStep s = .next s ∧ controllerEnabled s = false)

/-- R70, R127: from a state of the invariant, no step raises ControllerMisuse or UnknownPhase. -/
def Obligations.NoMisuseByThisEngine : Prop :=
  ∀ s : State, Inv s → s.faults = [] →
    (∀ a, step s ≠ .fault (.controllerMisuse a)) ∧ (∀ c, step s ≠ .fault (.unknownPhase c))

/-- R44: SI = 0 and STAT = 0xF8, or SI = 1 and STAT holds one of the eleven codes: so at launch, and kept by every step. -/
def Obligations.ExactlyOnePhaseIsActive : Prop :=
  PhaseInv State.reset ∧ (∀ s t : State, PhaseInv s → step s = .next t → PhaseInv t)

/-- R139: OWN = HELD exactly when the last ownership event of TRACE is a START or a repeated START: so at launch, and kept by
every step. -/
def Obligations.OwnFollowsTheTrace : Prop :=
  (∀ (tr : List BusEvent), ownOfTrace (tr ++ [.start]) = .held ∧ ownOfTrace (tr ++ [.rstart]) = .held ∧
    ownOfTrace (tr ++ [.stop]) = .free ∧ ownOfTrace (tr ++ [.arbLost]) = .free ∧
    (∀ b a, ownOfTrace (tr ++ [.addr b a]) = ownOfTrace tr ∧ ownOfTrace (tr ++ [.txd b a]) = ownOfTrace tr ∧
      ownOfTrace (tr ++ [.rxd b a]) = ownOfTrace tr)) ∧
  ownOfTrace [] = .free ∧ State.reset.bus.own = ownOfTrace State.reset.trace ∧
  (∀ s t : State, s.bus.own = ownOfTrace s.trace → step s = .next t → t.bus.own = ownOfTrace t.trace)

/-- R115: the progress invariant is kept by every step, and a step that is not a command's issue moves W_PTR and W_LEN only
together, by one byte. -/
def Obligations.ProgressIsKept : Prop :=
  ∀ s t : State, ProgressInv s → step s = .next t →
    ProgressInv t ∧
    ((takeAgent s).1 ≠ .host →
      (t.eng.wPtr = s.eng.wPtr ∧ t.eng.wLen = s.eng.wLen) ∨
      (t.eng.wPtr.toNat = s.eng.wPtr.toNat + 1 ∧ t.eng.wLen.toNat + 1 = s.eng.wLen.toNat))

/-- R43, R84, R143: the registers' side of the result contract. When a TRANSFER ends, success means that every byte was moved
and that the bus is held exactly where the caller asked for no trailing stop; failure means TSE = 1 and HELD = 0. What R84
says of TRACE and of the cause of a failure is in TransferContractObserved. -/
def Obligations.TransferResultContract : Prop :=
  ∀ s t : State, Inv s → step s = .next t → s.status.busy = true → t.status.busy = false → s.eng.wWarm = false →
    (t.status.fail = false → t.eng.wLen = 0 ∧ t.eng.wPtr = t.eng.wEnd ∧
      (t.bus.own = .held ↔ t.eng.wTstop = false) ∧ (t.bus.own = .held ↔ s.req.tstop = false)) ∧
    (t.status.fail = true → t.eng.wTstop = true ∧ t.bus.own = .free) ∧
    t.status.cfg = s.status.cfg ∧ t.req = s.req

/-- R35, R140: SCLH, SCLL and EN change only in the host's turn that writes a CONFIGURE while the block is idle and the bus
free; a CONFIGURE runs in no other state. -/
def Obligations.OnlyConfigureSetsTheClock : Prop :=
  (∀ s t : State, step s = .next t →
    t.ctl.sclh ≠ s.ctl.sclh ∨ t.ctl.scll ≠ s.ctl.scll ∨ t.ctl.con.en ≠ s.ctl.con.en →
    (takeAgent s).1 = .host ∧ s.bus.own = .free ∧ s.status.busy = false ∧
      ∃ w rest, s.host.program = .write .word 0x00 w :: rest ∧ w.toNat % 4 = 1) ∧
  (∀ (x : BitVec 30) (s t : State), exec (.configure x) s = .next t → s.bus.own = .free ∧ s.status.busy = false)

/-- R19, R29, R42: only the host's turns write the request registers, and a host turn that is not a CMD write writes
nothing but them, buffer memory and the host's own log and program. -/
def Obligations.WhoWritesWhat : Prop :=
  ∀ s t : State, step s = .next t →
    ((takeAgent s).1 ≠ .host → t.req = s.req ∧ t.host = s.host) ∧
    ((takeAgent s).1 = .host → (∀ w, s.host.program.head? ≠ some (.write .word 0x00 w)) →
      t.status = s.status ∧ t.eng = s.eng ∧ t.ctl = s.ctl ∧ t.bus = s.bus ∧ t.trace = s.trace ∧ t.env = s.env)

/-- R112: with `dir = 0` in W_SLA only the handlers of R96 to R102 run, with `dir = 1` only those of R96, R97 and R102 to
R106; so an engine step of a write stores nothing, and one of a read leaves no byte but the address to transmit. And the
engine reads no bit of W_SLA, `dir` among them (R63): with another byte there, its step is the same but for W_SLA itself and
for the copy that the two start handlers put in DAT. -/
def Obligations.DirectionDecidesTheHandlers : Prop :=
  (∀ s : State, Inv s →
    (∀ i, s.eng.es = .wait → s.ctl.con.si = true → decode (.phase s.ctl.stat) = .instr i →
      (s.eng.wSla.getLsbD 0 = false → i ∈ [.started, .repeatStarted, .addressWriteAcked, .addressWriteNacked,
        .dataWriteAcked, .dataWriteNacked, .arbitrationLost]) ∧
      (s.eng.wSla.getLsbD 0 = true → i ∈ [.started, .repeatStarted, .arbitrationLost, .addressReadAcked,
        .addressReadNacked, .dataReadAcked, .dataReadNacked])) ∧
    (∀ t, engineStep s = .next t →
      (s.eng.wSla.getLsbD 0 = false → t.mem = s.mem ∧ t.ctl.act ≠ 2) ∧
      (s.eng.wSla.getLsbD 0 = true → t.ctl.act = 1 → t.ctl.dat = s.eng.wSla))) ∧
  (∀ (s : State) (b : Byte),
    (∀ f, engineStep s = .fault f → engineStep { s with eng := { s.eng with wSla := b } } = .fault f) ∧
    (∀ t, engineStep s = .next t →
      engineStep { s with eng := { s.eng with wSla := b } } = .next { t with
        eng := { t.eng with wSla := b }
        ctl :=
          { t.ctl with
            dat := if s.eng.es = .wait ∧ s.ctl.con.si = true ∧ (s.ctl.stat = 0x08 ∨ s.ctl.stat = 0x10) then b
              else t.ctl.dat } }))

/-- R137, R159, R180: every command ends. From any point of a command on an enabled controller, under any order of turns in
which engine and controller come up often enough, whatever the answers to its bytes, if the bus is granted and a blocked STOP
or repeated START is allowed, a run without a fault comes to BUSY = 0. This is the bounded form, with a number of turns in
place of R137's fairness (notes/assumptions/20.md); FairRunEndsOrWaits is the form with fairness. -/
def Obligations.EveryCommandEnds : Prop :=
  ∀ (s : State) (gs rs : List Bool) (l sch : List Agent),
    Inv s → s.faults = [] → s.status.busy = true → s.ctl.con.en = true →
    s.env.grants = true :: gs → s.env.releases = true :: true :: rs → s.schedule = l ++ sch →
    (List.replicate (2 * s.eng.wLen.toNat + 8) [Agent.engine, .controller]).flatten.Sublist l →
    (∀ n, n ≤ l.length → ∃ t, Host.Core.run core n s = .next t) →
    ∃ n t, n ≤ l.length ∧ Host.Core.run core n s = .next t ∧ t.status.busy = false

/-- R10, R86, R137, R171, R180: from any point of a command, a fair run comes to BUSY = 0, or faults, or hangs in one of the ways
R171 names: from some point on it waits for the grant of a START for ever, or with SDRV = 1 for a STOP or repeated START to be
allowed for ever, or the controller is disabled. So with fairness alone, a fault-free command on an enabled controller ends
unless the environment blocks it for ever. -/
def Obligations.FairRunEndsOrWaits : Prop :=
  ∀ s : State, Inv s → s.faults = [] → s.status.busy = true → FairRun s →
    (∃ n, (stateAt n s).status.busy = false) ∨ (∃ n, (stateAt n s).faults ≠ []) ∨
    (∃ n, ∀ m, n ≤ m → waitsForGrant (stateAt m s) = true) ∨
    (∃ n, ∀ m, n ≤ m → waitsForRelease (stateAt m s) = true) ∨
    s.ctl.con.en = false

/-- R86, R132, R170: a command started on a disabled controller never ends: in every step of every agent BUSY stays 1, the
engine stays in WAIT and nothing happens on the bus. -/
def Obligations.TransferBeforeConfigureHangs : Prop :=
  ∀ s t : State, s.status.busy = true → s.eng.es = .wait → s.ctl.con.si = false → s.ctl.con.en = false →
    step s = .next t →
    t.status = s.status ∧ t.eng = s.eng ∧ t.ctl = s.ctl ∧ t.bus = s.bus ∧ t.trace = s.trace

/-! ### Whole commands -/

/-- R77, R80, R110: CONFIGURE from any idle, fault-free state with a free bus and a representable divisor, whatever the
environment answers to the warm-up's address byte: nine steps later the block is idle and configured, with the divisors
set, CON = EN only, the bus free, FAIL and buffer memory as before, and the warm-up's events in TRACE. -/
def Obligations.ConfigureRunsToIdle : Prop :=
  ∀ (s : State) (w : Word) (prog : List HostAccess) (sch : List Agent) (gs : List Bool) (a : TxAnswer)
    (as : List TxAnswer) (d : Nat),
    s.faults = [] → s.status.busy = false → s.bus.own = .free →
    s.host.program = .write .word 0x00 w :: prog → w.toNat % 4 = 1 →
    divisor s.req.pclk.toNat s.req.busf.toNat = .ok d →
    s.schedule = transferSchedule 0 true ++ sch → s.env.grants = true :: gs → s.env.tx = a :: as →
    ∃ t, Host.Core.run core 9 s = .next t ∧
      t.status = ⟨false, s.status.fail, true⟩ ∧ t.eng.es = .idle ∧
      t.ctl.con = ⟨false, false, false, false, true⟩ ∧ t.ctl.act = 0 ∧
      t.ctl.sclh.toNat = d ∧ t.ctl.scll.toNat = d ∧ t.ctl.dat = 0xFE ∧
      t.bus = ⟨.free, .none, false, false⟩ ∧ t.mem = s.mem ∧ t.req = s.req ∧ t.faults = [] ∧
      t.host = { s.host with program := prog } ∧ t.schedule = sch ∧
      t.trace = s.trace ++ [.start] ++
        (match a with
         | .reply r => [.addr 0xFE r, .stop]
         | .arb => [.arbLost])

/-- R83, R87, R88, R113: a write TRANSFER of any length against a responsive peripheral, from a free bus that is granted, or
from a held one whose repeated START nothing blocks or the environment allows (R120, R131). Its turns taken in order, it
ends idle with FAIL = 0, the bytes of the buffer on the bus in order after the address byte, then a STOP exactly where the
trailing stop is on, every byte moved, buffer memory unchanged. -/
def Obligations.WriteTransferRunsToIdle : Prop :=
  ∀ (s : State) (w : Word) (prog : List HostAccess) (sch : List Agent) (gs : List Bool) (as : List TxAnswer) (n : Nat),
    s.faults = [] → s.status.busy = false → Inv s → s.ctl.con.en = true →
    s.host.program = .write .word 0x00 w :: prog → w.toNat % 4 = 2 →
    s.req.len.toNat = n → s.req.buf.toNat + n < 2 ^ 32 → windowExists s s.req.buf.toNat n → slaDir s.req.sla = false →
    s.schedule = transferSchedule n s.req.tstop ++ sch → s.env.tx = List.replicate (n + 1) (.reply .ack) ++ as →
    (s.bus.own = .free ∧ s.env.grants = true :: gs ∨
      s.bus.own = .held ∧ (s.bus.sdrv = false ∨ s.env.releases = true :: gs)) →
    ∃ t, Host.Core.run core (transferSchedule n s.req.tstop).length s = .next t ∧
      t.status = { s.status with busy := false, fail := false } ∧ t.eng.es = .idle ∧ t.eng.wLen = 0 ∧
      t.eng.wPtr.toNat = s.req.buf.toNat + n ∧ t.mem = s.mem ∧ t.req = s.req ∧ t.faults = [] ∧ t.schedule = sch ∧
      t.bus.own = (if s.req.tstop then .free else .held) ∧
      t.trace = s.trace ++ [startEvent s.bus.own, .addr s.req.sla .ack] ++
        writeEvents s.mem s.req.buf.toNat n ++ stopEvents s.req.tstop

/-- R51, R83, R87, R88, R114: a read TRANSFER of one or more bytes against a responsive peripheral, from a free bus that is
granted or from a held one. Of two or more bytes every one but the last is ACKed and the last is NACKed; a single byte is
ACKed, which leaves AA on and, where no STOP follows, SDRV = 1. The bytes fill the buffer in arrival order and every other
byte of buffer memory is as it was. What SDRV = 1 could block (R131), the repeated START on a bus held with it and the STOP
after a single byte, is allowed by the environment. -/
def Obligations.ReadTransferRunsToIdle : Prop :=
  ∀ (s : State) (w : Word) (prog : List HostAccess) (sch : List Agent) (gs : List Bool) (as : List TxAnswer)
    (bytes : List Byte) (rs : List RxAnswer) (rels : List Bool) (n : Nat),
    s.faults = [] → s.status.busy = false → Inv s → s.ctl.con.en = true →
    s.host.program = .write .word 0x00 w :: prog → w.toNat % 4 = 2 →
    bytes.length = n → 1 ≤ n → s.req.len.toNat = n → s.req.buf.toNat + n < 2 ^ 32 →
    windowExists s s.req.buf.toNat n → slaDir s.req.sla = true →
    s.schedule = transferSchedule n s.req.tstop ++ sch → s.env.tx = .reply .ack :: as →
    s.env.rx = bytes.map RxAnswer.byte ++ rs →
    (s.bus.own = .free ∧ s.env.grants = true :: gs ∨ s.bus.own = .held) →
    (s.bus.sdrv = false ∧ (2 ≤ n ∨ s.req.tstop = false) ∨ s.env.releases = true :: true :: rels) →
    ∃ t, Host.Core.run core (transferSchedule n s.req.tstop).length s = .next t ∧
      t.status = { s.status with busy := false, fail := false } ∧ t.eng.es = .idle ∧ t.eng.wLen = 0 ∧
      t.eng.wPtr.toNat = s.req.buf.toNat + n ∧ t.req = s.req ∧ t.faults = [] ∧ t.schedule = sch ∧
      t.ctl.con.aa = decide (n = 1) ∧
      t.bus = (if s.req.tstop then ⟨.free, .none, false, false⟩ else ⟨.held, .mr, false, decide (n = 1)⟩) ∧
      (∀ i (h : i < bytes.length), Memory.read t.mem (s.req.buf.toNat + i) = bytes[i]) ∧
      (∀ a, a < s.req.buf.toNat ∨ s.req.buf.toNat + n ≤ a → Memory.read t.mem a = Memory.read s.mem a) ∧
      t.trace = s.trace ++ [startEvent s.bus.own, .addr s.req.sla .ack] ++ readEvents bytes ++
        stopEvents s.req.tstop

/-- R114, R131, R168: a read of one byte ACKs its only byte and leaves SDRV = 1, so its STOP waits for the environment: after
the byte is stored the transfer is in STOPWAIT, and it stays there, BUSY and HELD, through every further turn of engine and
controller in which the environment does not allow the STOP. The hang is the spec's; that each waiting turn answers a next
state, and that a controller's turn uses up one answer, is the model's own choice (notes/assumptions/5.md). -/
def Obligations.SingleByteReadCanHang : Prop :=
  ∀ (s : State) (w : Word) (prog : List HostAccess) (sch : List Agent) (gs : List Bool) (as : List TxAnswer) (b : Byte)
    (rs : List RxAnswer) (more : List Bool) (k : Nat),
    s.faults = [] → s.status.busy = false → Inv s → s.ctl.con.en = true → s.bus.own = .free →
    s.host.program = .write .word 0x00 w :: prog → w.toNat % 4 = 2 →
    s.req.len = 1 → s.req.buf.toNat + 1 < 2 ^ 32 → inMem s s.req.buf = true → slaDir s.req.sla = true →
    s.req.tstop = true →
    s.schedule = [.host, .engine, .controller, .engine, .controller, .engine, .controller, .engine, .engine] ++
      (List.replicate k [Agent.controller, .engine]).flatten ++ sch →
    s.env.grants = true :: gs → s.env.tx = .reply .ack :: as → s.env.rx = .byte b :: rs →
    s.env.releases = List.replicate k false ++ more →
    ∃ t, Host.Core.run core (9 + 2 * k) s = .next t ∧
      t.status.busy = true ∧ t.eng.es = .stopWait ∧ t.ctl.con.sto = true ∧ t.ctl.con.aa = true ∧
      t.bus = ⟨.held, .mr, false, true⟩ ∧ Memory.read t.mem s.req.buf.toNat = b ∧
      t.trace = s.trace ++ [.start, .addr s.req.sla .ack, .rxd b .ack] ∧ t.schedule = sch ∧ t.env.releases = more

/-- R84, R95, R141, R143: a TRANSFER whose address byte is NACKed, write or read, of any length and with either trailing stop,
ends idle with FAIL = 1 after a forced STOP; OPT and buffer memory are as before, and no byte was moved. -/
def Obligations.AddressNackForcesTheStop : Prop :=
  ∀ (s : State) (w : Word) (prog : List HostAccess) (sch : List Agent) (gs : List Bool) (as : List TxAnswer),
    s.faults = [] → s.status.busy = false → Inv s → s.ctl.con.en = true →
    s.host.program = .write .word 0x00 w :: prog → w.toNat % 4 = 2 →
    s.req.buf.toNat + s.req.len.toNat < 2 ^ 32 →
    s.schedule = transferSchedule 0 true ++ sch → s.env.tx = .reply .nack :: as →
    (s.bus.own = .free ∧ s.env.grants = true :: gs ∨
      s.bus.own = .held ∧ (s.bus.sdrv = false ∨ s.env.releases = true :: gs)) →
    ∃ t, Host.Core.run core 9 s = .next t ∧
      t.status = { s.status with busy := false, fail := true } ∧ t.eng.es = .idle ∧ t.eng.wTstop = true ∧
      t.eng.wLen = s.req.len ∧ t.eng.wPtr = s.req.buf ∧ t.bus = ⟨.free, .none, false, false⟩ ∧
      t.req = s.req ∧ t.mem = s.mem ∧ t.faults = [] ∧ t.schedule = sch ∧
      t.trace = s.trace ++ [startEvent s.bus.own, .addr s.req.sla .nack, .stop]

/-! ### What every run shows (R12) -/

/-- R12, R84, R87, R88, R113: whatever the order of turns and whatever the environment grants and allows, a run of a write
TRANSFER against a responsive peripheral is fault-free, and where the host reads BUSY = 0 it shows the bytes of the buffer on
the bus in order, buffer memory unchanged, and STATUS with FAIL = 0 and either TSE or HELD. -/
def Obligations.WriteTransferObserved : Prop :=
  ∀ (s : State) (w : Word) (as : List TxAnswer) (n k : Nat),
    s.faults = [] → s.status.busy = false → Inv s → s.ctl.con.en = true →
    s.host.program = [.write .word 0x00 w, .poll] → w.toNat % 4 = 2 →
    s.req.len.toNat = n → s.req.buf.toNat + n < 2 ^ 32 → windowExists s s.req.buf.toNat n → slaDir s.req.sla = false →
    s.env.tx = List.replicate (n + 1) (.reply .ack) ++ as →
    (observeRun k s).faults = [] ∧
    ∀ o, (observeRun k s).seen = some o →
      o.trace = s.trace ++ [startEvent s.bus.own, .addr s.req.sla .ack] ++
        writeEvents s.mem s.req.buf.toNat n ++ stopEvents s.req.tstop ∧
      o.mem = s.mem ∧
      o.status.toNat = (if s.status.cfg then 4 else 0) + (if s.req.tstop then 16 else 8)

/-- R12, R51, R84, R87, R88, R114: whatever the order of turns and whatever the environment grants and allows, a run of a read
TRANSFER of one or more bytes against a responsive peripheral is fault-free, and where the host reads BUSY = 0 the buffer
holds the bytes in arrival order, every other byte is as it was, TRACE shows each byte with its acknowledge bit, and STATUS
has FAIL = 0 and either TSE or HELD. -/
def Obligations.ReadTransferObserved : Prop :=
  ∀ (s : State) (w : Word) (as : List TxAnswer) (bytes : List Byte) (rs : List RxAnswer) (n k : Nat),
    s.faults = [] → s.status.busy = false → Inv s → s.ctl.con.en = true →
    s.host.program = [.write .word 0x00 w, .poll] → w.toNat % 4 = 2 →
    bytes.length = n → 1 ≤ n → s.req.len.toNat = n → s.req.buf.toNat + n < 2 ^ 32 →
    windowExists s s.req.buf.toNat n → slaDir s.req.sla = true →
    s.env.tx = .reply .ack :: as → s.env.rx = bytes.map RxAnswer.byte ++ rs →
    (observeRun k s).faults = [] ∧
    ∀ o, (observeRun k s).seen = some o →
      o.trace = s.trace ++ [startEvent s.bus.own, .addr s.req.sla .ack] ++ readEvents bytes ++
        stopEvents s.req.tstop ∧
      (∀ i (h : i < bytes.length), Memory.read o.mem (s.req.buf.toNat + i) = bytes[i]) ∧
      (∀ a, a < s.req.buf.toNat ∨ s.req.buf.toNat + n ≤ a → Memory.read o.mem a = Memory.read s.mem a) ∧
      o.status.toNat = (if s.status.cfg then 4 else 0) + (if s.req.tstop then 16 else 8)

/-- R12, R84: the result contract over every run of a TRANSFER, whatever its request, the order of turns and the environment's
answers. A run faults with BufferOverrun only. Where the host reads BUSY = 0: with FAIL = 0 the transfer's part of TRACE has
one event for each byte requested and no NACK but a read's own of its last byte, and HELD = 1 exactly when the caller's
trailing stop was off; with FAIL = 1 that part has an address NACK, a data NACK or an arbitration loss, TSE = 1 and
HELD = 0. -/
def Obligations.TransferContractObserved : Prop :=
  ∀ (s : State) (w : Word) (k : Nat),
    s.faults = [] → s.status.busy = false → Inv s →
    s.host.program = [.write .word 0x00 w, .poll] → w.toNat % 4 = 2 →
    (∀ f ∈ (observeRun k s).faults, ∃ a, f = .bufferOverrun a) ∧
    ∀ o, (observeRun k s).seen = some o →
      (observeRun k s).faults = [] ∧ o.status.getLsbD 0 = false ∧
      ∃ part, o.trace = s.trace ++ part ∧
        (o.status.getLsbD 1 = false →
          (∀ e ∈ part, e.isFailure = false) ∧
          (∀ pre b post, part = pre ++ [.rxd b .nack] ++ post → post = stopEvents s.req.tstop) ∧
          (part.filter BusEvent.isData).length = s.req.len.toNat ∧
          (o.status.getLsbD 3 = true ↔ s.req.tstop = false)) ∧
        (o.status.getLsbD 1 = true →
          (∃ e ∈ part, e.isFailure = true) ∧ o.status.getLsbD 4 = true ∧ o.status.getLsbD 3 = false)
end

