-- ==== Sys2Proof/Laws/Decode.lean ====
section
/-! SUPPORT. The fields of the encodings (R61, R62, R66) and the phase decoder (R69, R70). -/

namespace Sys2Proof

@[simp] theorem cmdOp_cmdWord (x : BitVec 30) (op : BitVec 2) : cmdOp (cmdWord x op) = op := by
  apply BitVec.eq_of_getLsbD_eq
  intro i hi
  simp only [cmdOp, cmdWord, BitVec.getLsbD_append, BitVec.getLsbD_extractLsb']
  simp [hi]

@[simp] theorem cmdIgnored_cmdWord (x : BitVec 30) (op : BitVec 2) : cmdIgnored (cmdWord x op) = x := by
  apply BitVec.eq_of_getLsbD_eq
  intro i hi
  simp only [cmdIgnored, cmdWord, BitVec.getLsbD_append, BitVec.getLsbD_extractLsb']
  simp [hi]
  omega

/-- A CMD word is its two fields. -/
theorem cmdWord_fields (w : Word) : cmdWord (cmdIgnored w) (cmdOp w) = w := by
  apply BitVec.eq_of_getLsbD_eq
  intro i hi
  simp only [cmdWord, cmdIgnored, cmdOp, BitVec.getLsbD_append, BitVec.getLsbD_extractLsb']
  by_cases h : i < 2
  · simp [h]
  · have h1 : i - 2 < 30 := by omega
    have h2 : 2 + (i - 2) = i := by omega
    simp [h, h1, h2]

@[simp] theorem slaAddr_slaByte (a : BitVec 7) (d : BitVec 1) : slaAddr (slaByte a d) = a := by
  apply BitVec.eq_of_getLsbD_eq
  intro i hi
  simp only [slaAddr, slaByte, BitVec.getLsbD_append, BitVec.getLsbD_extractLsb']
  simp [hi]

/-! The eleven codes of R64, each with the instruction it decodes to. -/

@[simp] theorem decodePhase_started : decodePhase 0x08#8 = .instr .started := rfl
@[simp] theorem decodePhase_repeatStarted : decodePhase 0x10#8 = .instr .repeatStarted := rfl
@[simp] theorem decodePhase_addressWriteAcked : decodePhase 0x18#8 = .instr .addressWriteAcked := rfl
@[simp] theorem decodePhase_addressWriteNacked : decodePhase 0x20#8 = .instr .addressWriteNacked := rfl
@[simp] theorem decodePhase_dataWriteAcked : decodePhase 0x28#8 = .instr .dataWriteAcked := rfl
@[simp] theorem decodePhase_dataWriteNacked : decodePhase 0x30#8 = .instr .dataWriteNacked := rfl
@[simp] theorem decodePhase_arbitrationLost : decodePhase 0x38#8 = .instr .arbitrationLost := rfl
@[simp] theorem decodePhase_addressReadAcked : decodePhase 0x40#8 = .instr .addressReadAcked := rfl
@[simp] theorem decodePhase_addressReadNacked : decodePhase 0x48#8 = .instr .addressReadNacked := rfl
@[simp] theorem decodePhase_dataReadAcked : decodePhase 0x50#8 = .instr .dataReadAcked := rfl
@[simp] theorem decodePhase_dataReadNacked : decodePhase 0x58#8 = .instr .dataReadNacked := rfl

/-- R69: a code decodes to an instruction exactly when the table of R64 has the pair. -/
theorem decodePhase_eq_instr {c : Byte} {i : Instr} : decodePhase c = .instr i ↔ phaseTable.lookup c = some i := by
  unfold decodePhase
  cases phaseTable.lookup c <;> simp

/-- A code in the list of the eleven decodes to an instruction. -/
theorem exists_of_mem_phaseCodes {c : Byte} (h : c ∈ phaseCodes) : ∃ i, decodePhase c = .instr i := by
  simp only [phaseCodes, phaseTable, List.map_cons, List.map_nil, List.mem_cons, List.not_mem_nil, or_false] at h
  rcases h with rfl | rfl | rfl | rfl | rfl | rfl | rfl | rfl | rfl | rfl | rfl <;> exact ⟨_, rfl⟩

/-- What the phase decoder gives is a row of R64's table. -/
theorem decodePhase_cases {c : Byte} {i : Instr} (h : decodePhase c = .instr i) :
    (c = 0x08 ∧ i = .started) ∨ (c = 0x10 ∧ i = .repeatStarted) ∨ (c = 0x18 ∧ i = .addressWriteAcked) ∨
    (c = 0x20 ∧ i = .addressWriteNacked) ∨ (c = 0x28 ∧ i = .dataWriteAcked) ∨ (c = 0x30 ∧ i = .dataWriteNacked) ∨
    (c = 0x38 ∧ i = .arbitrationLost) ∨ (c = 0x40 ∧ i = .addressReadAcked) ∨ (c = 0x48 ∧ i = .addressReadNacked) ∨
    (c = 0x50 ∧ i = .dataReadAcked) ∨ (c = 0x58 ∧ i = .dataReadNacked) := by
  rw [decodePhase_eq_instr] at h
  simp only [phaseTable, List.lookup] at h
  repeat' split at h
  all_goals simp_all

end Sys2Proof
end

