-- ==== Sys2Proof/Laws/State.lean ====
section
/-! SUPPORT. One lemma for each field of State and each named update: what the update does to that field. All are true by
unfolding the update once; later proofs cite them and unfold nothing. -/

namespace Sys2Proof.Machine

/-! ### setEs -/

@[simp] theorem setEs_req (e : EngineState) (s : State) : (setEs e s).req = s.req := rfl
@[simp] theorem setEs_status (e : EngineState) (s : State) : (setEs e s).status = s.status := rfl
@[simp] theorem setEs_eng (e : EngineState) (s : State) : (setEs e s).eng = { s.eng with es := e } := rfl
@[simp] theorem setEs_ctl (e : EngineState) (s : State) : (setEs e s).ctl = s.ctl := rfl
@[simp] theorem setEs_bus (e : EngineState) (s : State) : (setEs e s).bus = s.bus := rfl
@[simp] theorem setEs_trace (e : EngineState) (s : State) : (setEs e s).trace = s.trace := rfl
@[simp] theorem setEs_faults (e : EngineState) (s : State) : (setEs e s).faults = s.faults := rfl
@[simp] theorem setEs_mem (e : EngineState) (s : State) : (setEs e s).mem = s.mem := rfl
@[simp] theorem setEs_memMap (e : EngineState) (s : State) : (setEs e s).memMap = s.memMap := rfl
@[simp] theorem setEs_host (e : EngineState) (s : State) : (setEs e s).host = s.host := rfl
@[simp] theorem setEs_env (e : EngineState) (s : State) : (setEs e s).env = s.env := rfl
@[simp] theorem setEs_schedule (e : EngineState) (s : State) : (setEs e s).schedule = s.schedule := rfl
@[simp] theorem setEs_draws (e : EngineState) (s : State) : (setEs e s).draws = s.draws := rfl

/-! ### setAct -/

@[simp] theorem setAct_req (a : Select) (s : State) : (setAct a s).req = s.req := rfl
@[simp] theorem setAct_status (a : Select) (s : State) : (setAct a s).status = s.status := rfl
@[simp] theorem setAct_eng (a : Select) (s : State) : (setAct a s).eng = s.eng := rfl
@[simp] theorem setAct_ctl (a : Select) (s : State) : (setAct a s).ctl = { s.ctl with act := a } := rfl
@[simp] theorem setAct_bus (a : Select) (s : State) : (setAct a s).bus = s.bus := rfl
@[simp] theorem setAct_trace (a : Select) (s : State) : (setAct a s).trace = s.trace := rfl
@[simp] theorem setAct_faults (a : Select) (s : State) : (setAct a s).faults = s.faults := rfl
@[simp] theorem setAct_mem (a : Select) (s : State) : (setAct a s).mem = s.mem := rfl
@[simp] theorem setAct_memMap (a : Select) (s : State) : (setAct a s).memMap = s.memMap := rfl
@[simp] theorem setAct_host (a : Select) (s : State) : (setAct a s).host = s.host := rfl
@[simp] theorem setAct_env (a : Select) (s : State) : (setAct a s).env = s.env := rfl
@[simp] theorem setAct_schedule (a : Select) (s : State) : (setAct a s).schedule = s.schedule := rfl
@[simp] theorem setAct_draws (a : Select) (s : State) : (setAct a s).draws = s.draws := rfl

/-! ### setDat -/

@[simp] theorem setDat_req (b : Byte) (s : State) : (setDat b s).req = s.req := rfl
@[simp] theorem setDat_status (b : Byte) (s : State) : (setDat b s).status = s.status := rfl
@[simp] theorem setDat_eng (b : Byte) (s : State) : (setDat b s).eng = s.eng := rfl
@[simp] theorem setDat_ctl (b : Byte) (s : State) : (setDat b s).ctl = { s.ctl with dat := b } := rfl
@[simp] theorem setDat_bus (b : Byte) (s : State) : (setDat b s).bus = s.bus := rfl
@[simp] theorem setDat_trace (b : Byte) (s : State) : (setDat b s).trace = s.trace := rfl
@[simp] theorem setDat_faults (b : Byte) (s : State) : (setDat b s).faults = s.faults := rfl
@[simp] theorem setDat_mem (b : Byte) (s : State) : (setDat b s).mem = s.mem := rfl
@[simp] theorem setDat_memMap (b : Byte) (s : State) : (setDat b s).memMap = s.memMap := rfl
@[simp] theorem setDat_host (b : Byte) (s : State) : (setDat b s).host = s.host := rfl
@[simp] theorem setDat_env (b : Byte) (s : State) : (setDat b s).env = s.env := rfl
@[simp] theorem setDat_schedule (b : Byte) (s : State) : (setDat b s).schedule = s.schedule := rfl
@[simp] theorem setDat_draws (b : Byte) (s : State) : (setDat b s).draws = s.draws := rfl

/-! ### setAa -/

@[simp] theorem setAa_req (v : Bool) (s : State) : (setAa v s).req = s.req := rfl
@[simp] theorem setAa_status (v : Bool) (s : State) : (setAa v s).status = s.status := rfl
@[simp] theorem setAa_eng (v : Bool) (s : State) : (setAa v s).eng = s.eng := rfl
@[simp] theorem setAa_ctl (v : Bool) (s : State) : (setAa v s).ctl = { s.ctl with con := { s.ctl.con with aa := v } } := rfl
@[simp] theorem setAa_bus (v : Bool) (s : State) : (setAa v s).bus = s.bus := rfl
@[simp] theorem setAa_trace (v : Bool) (s : State) : (setAa v s).trace = s.trace := rfl
@[simp] theorem setAa_faults (v : Bool) (s : State) : (setAa v s).faults = s.faults := rfl
@[simp] theorem setAa_mem (v : Bool) (s : State) : (setAa v s).mem = s.mem := rfl
@[simp] theorem setAa_memMap (v : Bool) (s : State) : (setAa v s).memMap = s.memMap := rfl
@[simp] theorem setAa_host (v : Bool) (s : State) : (setAa v s).host = s.host := rfl
@[simp] theorem setAa_env (v : Bool) (s : State) : (setAa v s).env = s.env := rfl
@[simp] theorem setAa_schedule (v : Bool) (s : State) : (setAa v s).schedule = s.schedule := rfl
@[simp] theorem setAa_draws (v : Bool) (s : State) : (setAa v s).draws = s.draws := rfl

/-! ### setSta -/

@[simp] theorem setSta_req (v : Bool) (s : State) : (setSta v s).req = s.req := rfl
@[simp] theorem setSta_status (v : Bool) (s : State) : (setSta v s).status = s.status := rfl
@[simp] theorem setSta_eng (v : Bool) (s : State) : (setSta v s).eng = s.eng := rfl
@[simp] theorem setSta_ctl (v : Bool) (s : State) : (setSta v s).ctl = { s.ctl with con := { s.ctl.con with sta := v } } := rfl
@[simp] theorem setSta_bus (v : Bool) (s : State) : (setSta v s).bus = s.bus := rfl
@[simp] theorem setSta_trace (v : Bool) (s : State) : (setSta v s).trace = s.trace := rfl
@[simp] theorem setSta_faults (v : Bool) (s : State) : (setSta v s).faults = s.faults := rfl
@[simp] theorem setSta_mem (v : Bool) (s : State) : (setSta v s).mem = s.mem := rfl
@[simp] theorem setSta_memMap (v : Bool) (s : State) : (setSta v s).memMap = s.memMap := rfl
@[simp] theorem setSta_host (v : Bool) (s : State) : (setSta v s).host = s.host := rfl
@[simp] theorem setSta_env (v : Bool) (s : State) : (setSta v s).env = s.env := rfl
@[simp] theorem setSta_schedule (v : Bool) (s : State) : (setSta v s).schedule = s.schedule := rfl
@[simp] theorem setSta_draws (v : Bool) (s : State) : (setSta v s).draws = s.draws := rfl

/-! ### setSto -/

@[simp] theorem setSto_req (v : Bool) (s : State) : (setSto v s).req = s.req := rfl
@[simp] theorem setSto_status (v : Bool) (s : State) : (setSto v s).status = s.status := rfl
@[simp] theorem setSto_eng (v : Bool) (s : State) : (setSto v s).eng = s.eng := rfl
@[simp] theorem setSto_ctl (v : Bool) (s : State) : (setSto v s).ctl = { s.ctl with con := { s.ctl.con with sto := v } } := rfl
@[simp] theorem setSto_bus (v : Bool) (s : State) : (setSto v s).bus = s.bus := rfl
@[simp] theorem setSto_trace (v : Bool) (s : State) : (setSto v s).trace = s.trace := rfl
@[simp] theorem setSto_faults (v : Bool) (s : State) : (setSto v s).faults = s.faults := rfl
@[simp] theorem setSto_mem (v : Bool) (s : State) : (setSto v s).mem = s.mem := rfl
@[simp] theorem setSto_memMap (v : Bool) (s : State) : (setSto v s).memMap = s.memMap := rfl
@[simp] theorem setSto_host (v : Bool) (s : State) : (setSto v s).host = s.host := rfl
@[simp] theorem setSto_env (v : Bool) (s : State) : (setSto v s).env = s.env := rfl
@[simp] theorem setSto_schedule (v : Bool) (s : State) : (setSto v s).schedule = s.schedule := rfl
@[simp] theorem setSto_draws (v : Bool) (s : State) : (setSto v s).draws = s.draws := rfl

/-! ### clearSi -/

@[simp] theorem clearSi_req (s : State) : (clearSi s).req = s.req := rfl
@[simp] theorem clearSi_status (s : State) : (clearSi s).status = s.status := rfl
@[simp] theorem clearSi_eng (s : State) : (clearSi s).eng = s.eng := rfl
@[simp] theorem clearSi_ctl (s : State) : (clearSi s).ctl = { s.ctl with stat := noPhase, con := { s.ctl.con with si := false } } := rfl
@[simp] theorem clearSi_bus (s : State) : (clearSi s).bus = s.bus := rfl
@[simp] theorem clearSi_trace (s : State) : (clearSi s).trace = s.trace := rfl
@[simp] theorem clearSi_faults (s : State) : (clearSi s).faults = s.faults := rfl
@[simp] theorem clearSi_mem (s : State) : (clearSi s).mem = s.mem := rfl
@[simp] theorem clearSi_memMap (s : State) : (clearSi s).memMap = s.memMap := rfl
@[simp] theorem clearSi_host (s : State) : (clearSi s).host = s.host := rfl
@[simp] theorem clearSi_env (s : State) : (clearSi s).env = s.env := rfl
@[simp] theorem clearSi_schedule (s : State) : (clearSi s).schedule = s.schedule := rfl
@[simp] theorem clearSi_draws (s : State) : (clearSi s).draws = s.draws := rfl

/-! ### enterPhase -/

@[simp] theorem enterPhase_req (c : Byte) (s : State) : (enterPhase c s).req = s.req := rfl
@[simp] theorem enterPhase_status (c : Byte) (s : State) : (enterPhase c s).status = s.status := rfl
@[simp] theorem enterPhase_eng (c : Byte) (s : State) : (enterPhase c s).eng = s.eng := rfl
@[simp] theorem enterPhase_ctl (c : Byte) (s : State) : (enterPhase c s).ctl = { s.ctl with stat := c, con := { s.ctl.con with si := true } } := rfl
@[simp] theorem enterPhase_bus (c : Byte) (s : State) : (enterPhase c s).bus = s.bus := rfl
@[simp] theorem enterPhase_trace (c : Byte) (s : State) : (enterPhase c s).trace = s.trace := rfl
@[simp] theorem enterPhase_faults (c : Byte) (s : State) : (enterPhase c s).faults = s.faults := rfl
@[simp] theorem enterPhase_mem (c : Byte) (s : State) : (enterPhase c s).mem = s.mem := rfl
@[simp] theorem enterPhase_memMap (c : Byte) (s : State) : (enterPhase c s).memMap = s.memMap := rfl
@[simp] theorem enterPhase_host (c : Byte) (s : State) : (enterPhase c s).host = s.host := rfl
@[simp] theorem enterPhase_env (c : Byte) (s : State) : (enterPhase c s).env = s.env := rfl
@[simp] theorem enterPhase_schedule (c : Byte) (s : State) : (enterPhase c s).schedule = s.schedule := rfl
@[simp] theorem enterPhase_draws (c : Byte) (s : State) : (enterPhase c s).draws = s.draws := rfl

/-! ### emit -/

@[simp] theorem emit_req (e : BusEvent) (s : State) : (emit e s).req = s.req := rfl
@[simp] theorem emit_status (e : BusEvent) (s : State) : (emit e s).status = s.status := rfl
@[simp] theorem emit_eng (e : BusEvent) (s : State) : (emit e s).eng = s.eng := rfl
@[simp] theorem emit_ctl (e : BusEvent) (s : State) : (emit e s).ctl = s.ctl := rfl
@[simp] theorem emit_bus (e : BusEvent) (s : State) : (emit e s).bus = s.bus := rfl
@[simp] theorem emit_trace (e : BusEvent) (s : State) : (emit e s).trace = s.trace ++ [e] := rfl
@[simp] theorem emit_faults (e : BusEvent) (s : State) : (emit e s).faults = s.faults := rfl
@[simp] theorem emit_mem (e : BusEvent) (s : State) : (emit e s).mem = s.mem := rfl
@[simp] theorem emit_memMap (e : BusEvent) (s : State) : (emit e s).memMap = s.memMap := rfl
@[simp] theorem emit_host (e : BusEvent) (s : State) : (emit e s).host = s.host := rfl
@[simp] theorem emit_env (e : BusEvent) (s : State) : (emit e s).env = s.env := rfl
@[simp] theorem emit_schedule (e : BusEvent) (s : State) : (emit e s).schedule = s.schedule := rfl
@[simp] theorem emit_draws (e : BusEvent) (s : State) : (emit e s).draws = s.draws := rfl

/-! ### setBus -/

@[simp] theorem setBus_req (b : BusState) (s : State) : (setBus b s).req = s.req := rfl
@[simp] theorem setBus_status (b : BusState) (s : State) : (setBus b s).status = s.status := rfl
@[simp] theorem setBus_eng (b : BusState) (s : State) : (setBus b s).eng = s.eng := rfl
@[simp] theorem setBus_ctl (b : BusState) (s : State) : (setBus b s).ctl = s.ctl := rfl
@[simp] theorem setBus_bus (b : BusState) (s : State) : (setBus b s).bus = b := rfl
@[simp] theorem setBus_trace (b : BusState) (s : State) : (setBus b s).trace = s.trace := rfl
@[simp] theorem setBus_faults (b : BusState) (s : State) : (setBus b s).faults = s.faults := rfl
@[simp] theorem setBus_mem (b : BusState) (s : State) : (setBus b s).mem = s.mem := rfl
@[simp] theorem setBus_memMap (b : BusState) (s : State) : (setBus b s).memMap = s.memMap := rfl
@[simp] theorem setBus_host (b : BusState) (s : State) : (setBus b s).host = s.host := rfl
@[simp] theorem setBus_env (b : BusState) (s : State) : (setBus b s).env = s.env := rfl
@[simp] theorem setBus_schedule (b : BusState) (s : State) : (setBus b s).schedule = s.schedule := rfl
@[simp] theorem setBus_draws (b : BusState) (s : State) : (setBus b s).draws = s.draws := rfl

/-! ### epilogue -/

@[simp] theorem epilogue_req (o : HandlerOutcome) (s : State) : (epilogue o s).req = s.req := rfl
@[simp] theorem epilogue_status (o : HandlerOutcome) (s : State) : (epilogue o s).status = s.status := rfl
@[simp] theorem epilogue_eng (o : HandlerOutcome) (s : State) : (epilogue o s).eng = { s.eng with es := o.next } := rfl
@[simp] theorem epilogue_ctl (o : HandlerOutcome) (s : State) : (epilogue o s).ctl = { s.ctl with stat := noPhase, con := { s.ctl.con with si := false } } := rfl
@[simp] theorem epilogue_bus (o : HandlerOutcome) (s : State) : (epilogue o s).bus = s.bus := rfl
@[simp] theorem epilogue_trace (o : HandlerOutcome) (s : State) : (epilogue o s).trace = s.trace := rfl
@[simp] theorem epilogue_faults (o : HandlerOutcome) (s : State) : (epilogue o s).faults = s.faults := rfl
@[simp] theorem epilogue_mem (o : HandlerOutcome) (s : State) : (epilogue o s).mem = s.mem := rfl
@[simp] theorem epilogue_memMap (o : HandlerOutcome) (s : State) : (epilogue o s).memMap = s.memMap := rfl
@[simp] theorem epilogue_host (o : HandlerOutcome) (s : State) : (epilogue o s).host = s.host := rfl
@[simp] theorem epilogue_env (o : HandlerOutcome) (s : State) : (epilogue o s).env = s.env := rfl
@[simp] theorem epilogue_schedule (o : HandlerOutcome) (s : State) : (epilogue o s).schedule = s.schedule := rfl
@[simp] theorem epilogue_draws (o : HandlerOutcome) (s : State) : (epilogue o s).draws = s.draws := rfl

/-! ### failTransfer -/

@[simp] theorem failTransfer_req (s : State) : (failTransfer s).req = s.req := rfl
@[simp] theorem failTransfer_status (s : State) : (failTransfer s).status = s.status := rfl
@[simp] theorem failTransfer_eng (s : State) : (failTransfer s).eng = { s.eng with wTstop := true, wFail := true, es := .term } := rfl
@[simp] theorem failTransfer_ctl (s : State) : (failTransfer s).ctl = { s.ctl with stat := noPhase, act := actNone, con := { s.ctl.con with si := false } } := rfl
@[simp] theorem failTransfer_bus (s : State) : (failTransfer s).bus = s.bus := rfl
@[simp] theorem failTransfer_trace (s : State) : (failTransfer s).trace = s.trace := rfl
@[simp] theorem failTransfer_faults (s : State) : (failTransfer s).faults = s.faults := rfl
@[simp] theorem failTransfer_mem (s : State) : (failTransfer s).mem = s.mem := rfl
@[simp] theorem failTransfer_memMap (s : State) : (failTransfer s).memMap = s.memMap := rfl
@[simp] theorem failTransfer_host (s : State) : (failTransfer s).host = s.host := rfl
@[simp] theorem failTransfer_env (s : State) : (failTransfer s).env = s.env := rfl
@[simp] theorem failTransfer_schedule (s : State) : (failTransfer s).schedule = s.schedule := rfl
@[simp] theorem failTransfer_draws (s : State) : (failTransfer s).draws = s.draws := rfl

/-! ### placeAddress -/

@[simp] theorem placeAddress_req (s : State) : (placeAddress s).req = s.req := rfl
@[simp] theorem placeAddress_status (s : State) : (placeAddress s).status = s.status := rfl
@[simp] theorem placeAddress_eng (s : State) : (placeAddress s).eng = { s.eng with es := .wait } := rfl
@[simp] theorem placeAddress_ctl (s : State) : (placeAddress s).ctl = { s.ctl with stat := noPhase, dat := s.eng.wSla, act := actTx, con := { s.ctl.con with sta := false, si := false } } := rfl
@[simp] theorem placeAddress_bus (s : State) : (placeAddress s).bus = s.bus := rfl
@[simp] theorem placeAddress_trace (s : State) : (placeAddress s).trace = s.trace := rfl
@[simp] theorem placeAddress_faults (s : State) : (placeAddress s).faults = s.faults := rfl
@[simp] theorem placeAddress_mem (s : State) : (placeAddress s).mem = s.mem := rfl
@[simp] theorem placeAddress_memMap (s : State) : (placeAddress s).memMap = s.memMap := rfl
@[simp] theorem placeAddress_host (s : State) : (placeAddress s).host = s.host := rfl
@[simp] theorem placeAddress_env (s : State) : (placeAddress s).env = s.env := rfl
@[simp] theorem placeAddress_schedule (s : State) : (placeAddress s).schedule = s.schedule := rfl
@[simp] theorem placeAddress_draws (s : State) : (placeAddress s).draws = s.draws := rfl

/-! ### countByte -/

@[simp] theorem countByte_req (s : State) : (countByte s).req = s.req := rfl
@[simp] theorem countByte_status (s : State) : (countByte s).status = s.status := rfl
@[simp] theorem countByte_eng (s : State) : (countByte s).eng = { s.eng with wPtr := s.eng.wPtr + 1, wLen := lengthAfterByte s } := rfl
@[simp] theorem countByte_ctl (s : State) : (countByte s).ctl = s.ctl := rfl
@[simp] theorem countByte_bus (s : State) : (countByte s).bus = s.bus := rfl
@[simp] theorem countByte_trace (s : State) : (countByte s).trace = s.trace := rfl
@[simp] theorem countByte_faults (s : State) : (countByte s).faults = s.faults := rfl
@[simp] theorem countByte_mem (s : State) : (countByte s).mem = s.mem := rfl
@[simp] theorem countByte_memMap (s : State) : (countByte s).memMap = s.memMap := rfl
@[simp] theorem countByte_host (s : State) : (countByte s).host = s.host := rfl
@[simp] theorem countByte_env (s : State) : (countByte s).env = s.env := rfl
@[simp] theorem countByte_schedule (s : State) : (countByte s).schedule = s.schedule := rfl
@[simp] theorem countByte_draws (s : State) : (countByte s).draws = if s.eng.wLen = 0 then s.draws + 1 else s.draws := rfl

/-! ### popHost -/

@[simp] theorem popHost_req (s : State) : (popHost s).req = s.req := rfl
@[simp] theorem popHost_status (s : State) : (popHost s).status = s.status := rfl
@[simp] theorem popHost_eng (s : State) : (popHost s).eng = s.eng := rfl
@[simp] theorem popHost_ctl (s : State) : (popHost s).ctl = s.ctl := rfl
@[simp] theorem popHost_bus (s : State) : (popHost s).bus = s.bus := rfl
@[simp] theorem popHost_trace (s : State) : (popHost s).trace = s.trace := rfl
@[simp] theorem popHost_faults (s : State) : (popHost s).faults = s.faults := rfl
@[simp] theorem popHost_mem (s : State) : (popHost s).mem = s.mem := rfl
@[simp] theorem popHost_memMap (s : State) : (popHost s).memMap = s.memMap := rfl
@[simp] theorem popHost_host (s : State) : (popHost s).host = { s.host with program := s.host.program.tail } := rfl
@[simp] theorem popHost_env (s : State) : (popHost s).env = s.env := rfl
@[simp] theorem popHost_schedule (s : State) : (popHost s).schedule = s.schedule := rfl
@[simp] theorem popHost_draws (s : State) : (popHost s).draws = s.draws := rfl

/-! ### logReply -/

@[simp] theorem logReply_req (r : HostReply) (s : State) : (logReply r s).req = s.req := rfl
@[simp] theorem logReply_status (r : HostReply) (s : State) : (logReply r s).status = s.status := rfl
@[simp] theorem logReply_eng (r : HostReply) (s : State) : (logReply r s).eng = s.eng := rfl
@[simp] theorem logReply_ctl (r : HostReply) (s : State) : (logReply r s).ctl = s.ctl := rfl
@[simp] theorem logReply_bus (r : HostReply) (s : State) : (logReply r s).bus = s.bus := rfl
@[simp] theorem logReply_trace (r : HostReply) (s : State) : (logReply r s).trace = s.trace := rfl
@[simp] theorem logReply_faults (r : HostReply) (s : State) : (logReply r s).faults = s.faults := rfl
@[simp] theorem logReply_mem (r : HostReply) (s : State) : (logReply r s).mem = s.mem := rfl
@[simp] theorem logReply_memMap (r : HostReply) (s : State) : (logReply r s).memMap = s.memMap := rfl
@[simp] theorem logReply_host (r : HostReply) (s : State) : (logReply r s).host = { s.host with log := s.host.log ++ [r] } := rfl
@[simp] theorem logReply_env (r : HostReply) (s : State) : (logReply r s).env = s.env := rfl
@[simp] theorem logReply_schedule (r : HostReply) (s : State) : (logReply r s).schedule = s.schedule := rfl
@[simp] theorem logReply_draws (r : HostReply) (s : State) : (logReply r s).draws = s.draws := rfl

/-! ### recordFault -/

@[simp] theorem recordFault_req (f : Fault) (s : State) : (recordFault f s).req = s.req := rfl
@[simp] theorem recordFault_status (f : Fault) (s : State) : (recordFault f s).status = s.status := rfl
@[simp] theorem recordFault_eng (f : Fault) (s : State) : (recordFault f s).eng = s.eng := rfl
@[simp] theorem recordFault_ctl (f : Fault) (s : State) : (recordFault f s).ctl = s.ctl := rfl
@[simp] theorem recordFault_bus (f : Fault) (s : State) : (recordFault f s).bus = s.bus := rfl
@[simp] theorem recordFault_trace (f : Fault) (s : State) : (recordFault f s).trace = s.trace := rfl
@[simp] theorem recordFault_faults (f : Fault) (s : State) : (recordFault f s).faults = s.faults ++ [f] := rfl
@[simp] theorem recordFault_mem (f : Fault) (s : State) : (recordFault f s).mem = s.mem := rfl
@[simp] theorem recordFault_memMap (f : Fault) (s : State) : (recordFault f s).memMap = s.memMap := rfl
@[simp] theorem recordFault_host (f : Fault) (s : State) : (recordFault f s).host = s.host := rfl
@[simp] theorem recordFault_env (f : Fault) (s : State) : (recordFault f s).env = s.env := rfl
@[simp] theorem recordFault_schedule (f : Fault) (s : State) : (recordFault f s).schedule = s.schedule := rfl
@[simp] theorem recordFault_draws (f : Fault) (s : State) : (recordFault f s).draws = s.draws := rfl

/-! ### issueTransfer -/

@[simp] theorem issueTransfer_req (o : TransferOperands) (w : Bool) (s : State) : (issueTransfer o w s).req = s.req := rfl
@[simp] theorem issueTransfer_status (o : TransferOperands) (w : Bool) (s : State) : (issueTransfer o w s).status = { s.status with busy := true } := rfl
@[simp] theorem issueTransfer_eng (o : TransferOperands) (w : Bool) (s : State) : (issueTransfer o w s).eng = ⟨o.address, o.buffer, o.buffer, BitVec.ofNat 32 o.limit, o.length, o.trailingStop, false, w, .start⟩ := rfl
@[simp] theorem issueTransfer_ctl (o : TransferOperands) (w : Bool) (s : State) : (issueTransfer o w s).ctl = s.ctl := rfl
@[simp] theorem issueTransfer_bus (o : TransferOperands) (w : Bool) (s : State) : (issueTransfer o w s).bus = s.bus := rfl
@[simp] theorem issueTransfer_trace (o : TransferOperands) (w : Bool) (s : State) : (issueTransfer o w s).trace = s.trace := rfl
@[simp] theorem issueTransfer_faults (o : TransferOperands) (w : Bool) (s : State) : (issueTransfer o w s).faults = s.faults := rfl
@[simp] theorem issueTransfer_mem (o : TransferOperands) (w : Bool) (s : State) : (issueTransfer o w s).mem = s.mem := rfl
@[simp] theorem issueTransfer_memMap (o : TransferOperands) (w : Bool) (s : State) : (issueTransfer o w s).memMap = s.memMap := rfl
@[simp] theorem issueTransfer_host (o : TransferOperands) (w : Bool) (s : State) : (issueTransfer o w s).host = s.host := rfl
@[simp] theorem issueTransfer_env (o : TransferOperands) (w : Bool) (s : State) : (issueTransfer o w s).env = s.env := rfl
@[simp] theorem issueTransfer_schedule (o : TransferOperands) (w : Bool) (s : State) : (issueTransfer o w s).schedule = s.schedule := rfl
@[simp] theorem issueTransfer_draws (o : TransferOperands) (w : Bool) (s : State) : (issueTransfer o w s).draws = s.draws := rfl

/-! ### configureController -/

@[simp] theorem configureController_req (d : Nat) (s : State) : (configureController d s).req = s.req := rfl
@[simp] theorem configureController_status (d : Nat) (s : State) : (configureController d s).status = s.status := rfl
@[simp] theorem configureController_eng (d : Nat) (s : State) : (configureController d s).eng = s.eng := rfl
@[simp] theorem configureController_ctl (d : Nat) (s : State) : (configureController d s).ctl = ⟨⟨false, false, false, false, true⟩, noPhase, s.ctl.dat, BitVec.ofNat 16 d, BitVec.ofNat 16 d, actNone⟩ := rfl
@[simp] theorem configureController_bus (d : Nat) (s : State) : (configureController d s).bus = { s.bus with mode := .none, firstTx := false, sdrv := false } := rfl
@[simp] theorem configureController_trace (d : Nat) (s : State) : (configureController d s).trace = s.trace := rfl
@[simp] theorem configureController_faults (d : Nat) (s : State) : (configureController d s).faults = s.faults := rfl
@[simp] theorem configureController_mem (d : Nat) (s : State) : (configureController d s).mem = s.mem := rfl
@[simp] theorem configureController_memMap (d : Nat) (s : State) : (configureController d s).memMap = s.memMap := rfl
@[simp] theorem configureController_host (d : Nat) (s : State) : (configureController d s).host = s.host := rfl
@[simp] theorem configureController_env (d : Nat) (s : State) : (configureController d s).env = s.env := rfl
@[simp] theorem configureController_schedule (d : Nat) (s : State) : (configureController d s).schedule = s.schedule := rfl
@[simp] theorem configureController_draws (d : Nat) (s : State) : (configureController d s).draws = s.draws := rfl

end Sys2Proof.Machine
end

