-- ==== Sys2Proof/Laws/Inputs.lean ====
section
/-! SUPPORT. Asking for an input (an answer of the environment, the next agent) changes nothing but the lists the inputs
come from and the count of free values. -/

namespace Sys2Proof.Machine

/-! ### askGrant -/

@[simp] theorem askGrant_req (s : State) : (askGrant s).2.req = s.req := by
  unfold askGrant; split <;> rfl
@[simp] theorem askGrant_status (s : State) : (askGrant s).2.status = s.status := by
  unfold askGrant; split <;> rfl
@[simp] theorem askGrant_eng (s : State) : (askGrant s).2.eng = s.eng := by
  unfold askGrant; split <;> rfl
@[simp] theorem askGrant_ctl (s : State) : (askGrant s).2.ctl = s.ctl := by
  unfold askGrant; split <;> rfl
@[simp] theorem askGrant_bus (s : State) : (askGrant s).2.bus = s.bus := by
  unfold askGrant; split <;> rfl
@[simp] theorem askGrant_trace (s : State) : (askGrant s).2.trace = s.trace := by
  unfold askGrant; split <;> rfl
@[simp] theorem askGrant_faults (s : State) : (askGrant s).2.faults = s.faults := by
  unfold askGrant; split <;> rfl
@[simp] theorem askGrant_mem (s : State) : (askGrant s).2.mem = s.mem := by
  unfold askGrant; split <;> rfl
@[simp] theorem askGrant_memMap (s : State) : (askGrant s).2.memMap = s.memMap := by
  unfold askGrant; split <;> rfl
@[simp] theorem askGrant_host (s : State) : (askGrant s).2.host = s.host := by
  unfold askGrant; split <;> rfl
@[simp] theorem askGrant_schedule (s : State) : (askGrant s).2.schedule = s.schedule := by
  unfold askGrant; split <;> rfl

/-! ### askTx -/

@[simp] theorem askTx_req (s : State) : (askTx s).2.req = s.req := by
  unfold askTx; split <;> rfl
@[simp] theorem askTx_status (s : State) : (askTx s).2.status = s.status := by
  unfold askTx; split <;> rfl
@[simp] theorem askTx_eng (s : State) : (askTx s).2.eng = s.eng := by
  unfold askTx; split <;> rfl
@[simp] theorem askTx_ctl (s : State) : (askTx s).2.ctl = s.ctl := by
  unfold askTx; split <;> rfl
@[simp] theorem askTx_bus (s : State) : (askTx s).2.bus = s.bus := by
  unfold askTx; split <;> rfl
@[simp] theorem askTx_trace (s : State) : (askTx s).2.trace = s.trace := by
  unfold askTx; split <;> rfl
@[simp] theorem askTx_faults (s : State) : (askTx s).2.faults = s.faults := by
  unfold askTx; split <;> rfl
@[simp] theorem askTx_mem (s : State) : (askTx s).2.mem = s.mem := by
  unfold askTx; split <;> rfl
@[simp] theorem askTx_memMap (s : State) : (askTx s).2.memMap = s.memMap := by
  unfold askTx; split <;> rfl
@[simp] theorem askTx_host (s : State) : (askTx s).2.host = s.host := by
  unfold askTx; split <;> rfl
@[simp] theorem askTx_schedule (s : State) : (askTx s).2.schedule = s.schedule := by
  unfold askTx; split <;> rfl

/-! ### askRx -/

@[simp] theorem askRx_req (s : State) : (askRx s).2.req = s.req := by
  unfold askRx; split <;> rfl
@[simp] theorem askRx_status (s : State) : (askRx s).2.status = s.status := by
  unfold askRx; split <;> rfl
@[simp] theorem askRx_eng (s : State) : (askRx s).2.eng = s.eng := by
  unfold askRx; split <;> rfl
@[simp] theorem askRx_ctl (s : State) : (askRx s).2.ctl = s.ctl := by
  unfold askRx; split <;> rfl
@[simp] theorem askRx_bus (s : State) : (askRx s).2.bus = s.bus := by
  unfold askRx; split <;> rfl
@[simp] theorem askRx_trace (s : State) : (askRx s).2.trace = s.trace := by
  unfold askRx; split <;> rfl
@[simp] theorem askRx_faults (s : State) : (askRx s).2.faults = s.faults := by
  unfold askRx; split <;> rfl
@[simp] theorem askRx_mem (s : State) : (askRx s).2.mem = s.mem := by
  unfold askRx; split <;> rfl
@[simp] theorem askRx_memMap (s : State) : (askRx s).2.memMap = s.memMap := by
  unfold askRx; split <;> rfl
@[simp] theorem askRx_host (s : State) : (askRx s).2.host = s.host := by
  unfold askRx; split <;> rfl
@[simp] theorem askRx_schedule (s : State) : (askRx s).2.schedule = s.schedule := by
  unfold askRx; split <;> rfl

/-! ### askRelease -/

@[simp] theorem askRelease_req (s : State) : (askRelease s).2.req = s.req := by
  unfold askRelease; split; · rfl
  split <;> rfl
@[simp] theorem askRelease_status (s : State) : (askRelease s).2.status = s.status := by
  unfold askRelease; split; · rfl
  split <;> rfl
@[simp] theorem askRelease_eng (s : State) : (askRelease s).2.eng = s.eng := by
  unfold askRelease; split; · rfl
  split <;> rfl
@[simp] theorem askRelease_ctl (s : State) : (askRelease s).2.ctl = s.ctl := by
  unfold askRelease; split; · rfl
  split <;> rfl
@[simp] theorem askRelease_bus (s : State) : (askRelease s).2.bus = s.bus := by
  unfold askRelease; split; · rfl
  split <;> rfl
@[simp] theorem askRelease_trace (s : State) : (askRelease s).2.trace = s.trace := by
  unfold askRelease; split; · rfl
  split <;> rfl
@[simp] theorem askRelease_faults (s : State) : (askRelease s).2.faults = s.faults := by
  unfold askRelease; split; · rfl
  split <;> rfl
@[simp] theorem askRelease_mem (s : State) : (askRelease s).2.mem = s.mem := by
  unfold askRelease; split; · rfl
  split <;> rfl
@[simp] theorem askRelease_memMap (s : State) : (askRelease s).2.memMap = s.memMap := by
  unfold askRelease; split; · rfl
  split <;> rfl
@[simp] theorem askRelease_host (s : State) : (askRelease s).2.host = s.host := by
  unfold askRelease; split; · rfl
  split <;> rfl
@[simp] theorem askRelease_schedule (s : State) : (askRelease s).2.schedule = s.schedule := by
  unfold askRelease; split; · rfl
  split <;> rfl

/-! ### takeAgent -/

@[simp] theorem takeAgent_req (s : State) : (takeAgent s).2.req = s.req := by
  unfold takeAgent; split <;> rfl
@[simp] theorem takeAgent_status (s : State) : (takeAgent s).2.status = s.status := by
  unfold takeAgent; split <;> rfl
@[simp] theorem takeAgent_eng (s : State) : (takeAgent s).2.eng = s.eng := by
  unfold takeAgent; split <;> rfl
@[simp] theorem takeAgent_ctl (s : State) : (takeAgent s).2.ctl = s.ctl := by
  unfold takeAgent; split <;> rfl
@[simp] theorem takeAgent_bus (s : State) : (takeAgent s).2.bus = s.bus := by
  unfold takeAgent; split <;> rfl
@[simp] theorem takeAgent_trace (s : State) : (takeAgent s).2.trace = s.trace := by
  unfold takeAgent; split <;> rfl
@[simp] theorem takeAgent_faults (s : State) : (takeAgent s).2.faults = s.faults := by
  unfold takeAgent; split <;> rfl
@[simp] theorem takeAgent_mem (s : State) : (takeAgent s).2.mem = s.mem := by
  unfold takeAgent; split <;> rfl
@[simp] theorem takeAgent_memMap (s : State) : (takeAgent s).2.memMap = s.memMap := by
  unfold takeAgent; split <;> rfl
@[simp] theorem takeAgent_host (s : State) : (takeAgent s).2.host = s.host := by
  unfold takeAgent; split <;> rfl
@[simp] theorem takeAgent_env (s : State) : (takeAgent s).2.env = s.env := by
  unfold takeAgent; split <;> rfl

end Sys2Proof.Machine
end

