-- ==== Sys2Proof/Laws/Memory.lean ====
section
/-! SUPPORT. Buffer memory: a read after a write, and the canonical form under every write. -/

namespace Sys2Proof.Machine

theorem Memory.read_nil (a : Nat) : Memory.read [] a = unlistedByte := rfl

theorem Memory.read_cons (k : Nat) (v : Byte) (m : Memory) (a : Nat) :
    Memory.read ((k, v) :: m) a = if a = k then v else Memory.read m a := rfl

/-- An address below every listed one reads as unlisted. -/
theorem Memory.read_below {m : Memory} {a : Nat} (h : ∀ c ∈ m, a < c.1) : Memory.read m a = unlistedByte := by
  induction m with
  | nil => rfl
  | cons c m ih =>
    obtain ⟨k, v⟩ := c
    have hk : a < k := h (k, v) (by simp)
    rw [Memory.read_cons, if_neg (by omega)]
    exact ih fun c hc => h c (by simp [hc])

/-- In rising order, the tail lists no address up to the head's. -/
theorem Memory.tail_above {k : Nat} {v : Byte} {m : Memory}
    (h : ((k, v) :: m : Memory).Pairwise fun x y => x.1 < y.1) : ∀ c ∈ m, k < c.1 :=
  (List.pairwise_cons.1 h).1

/-- The byte just written is the byte read. -/
theorem Memory.read_write_same {m : Memory} (h : m.Pairwise fun x y => x.1 < y.1) (a : Nat) (v : Byte) :
    Memory.read (Memory.write m a v) a = v := by
  induction m with
  | nil =>
    unfold Memory.write; split
    · simp_all [Memory.read]
    · simp [Memory.read]
  | cons c m ih =>
    obtain ⟨k, w⟩ := c
    have habove := Memory.tail_above h
    unfold Memory.write
    split
    · split
      · subst v
        refine Memory.read_below fun c hc => ?_
        rcases List.mem_cons.1 hc with rfl | hc
        · assumption
        · exact Nat.lt_trans ‹_› (habove c hc)
      · simp [Memory.read]
    · split
      · split
        · subst a v
          exact Memory.read_below habove
        · simp [Memory.read]
      · rw [Memory.read_cons, if_neg ‹_›]
        exact ih (List.pairwise_cons.1 h).2

/-- Every other byte is as it was. -/
theorem Memory.read_write_other {m : Memory} (a b : Nat) (v : Byte) (hab : b ≠ a) :
    Memory.read (Memory.write m a v) b = Memory.read m b := by
  induction m with
  | nil =>
    unfold Memory.write; split
    · rfl
    · simp [Memory.read, hab]
  | cons c m ih =>
    obtain ⟨k, w⟩ := c
    unfold Memory.write
    split
    · split
      · rfl
      · simp [Memory.read, hab]
    · split
      · subst k
        split <;> simp [Memory.read, hab]
      · simp [Memory.read, ih]

/-- A written memory lists only the written address and addresses that were listed. -/
theorem Memory.mem_write {m : Memory} {a : Nat} {v : Byte} {c : Host.Cell} (h : c ∈ Memory.write m a v) :
    c ∈ m ∨ (c = (a, v) ∧ v ≠ unlistedByte) := by
  induction m with
  | nil =>
    unfold Memory.write at h
    split at h
    · simp at h
    · exact .inr ⟨by simpa using h, ‹_›⟩
  | cons d m ih =>
    obtain ⟨k, w⟩ := d
    unfold Memory.write at h
    split at h
    · split at h
      · exact .inl h
      · rcases List.mem_cons.1 h with rfl | h
        · exact .inr ⟨rfl, ‹_›⟩
        · exact .inl h
    · split at h
      · split at h
        · exact .inl (List.mem_cons_of_mem _ h)
        · rcases List.mem_cons.1 h with rfl | h
          · exact .inr ⟨rfl, ‹_›⟩
          · exact .inl (List.mem_cons_of_mem _ h)
      · rcases List.mem_cons.1 h with rfl | h
        · exact .inl (List.mem_cons_self ..)
        · rcases ih h with h | h
          · exact .inl (List.mem_cons_of_mem _ h)
          · exact .inr h

/-- A write keeps the addresses strictly rising. -/
theorem Memory.write_rising {m : Memory} (h : m.Pairwise fun x y => x.1 < y.1) (a : Nat) (v : Byte) :
    (Memory.write m a v).Pairwise fun x y => x.1 < y.1 := by
  induction m with
  | nil => unfold Memory.write; split <;> simp
  | cons d m ih =>
    obtain ⟨k, w⟩ := d
    obtain ⟨habove, htail⟩ := List.pairwise_cons.1 h
    unfold Memory.write
    split
    · split
      · exact h
      · refine List.pairwise_cons.2 ⟨fun c hc => ?_, h⟩
        rcases List.mem_cons.1 hc with rfl | hc
        · assumption
        · exact Nat.lt_trans ‹_› (habove c hc)
    · split
      · subst a
        split
        · exact htail
        · exact List.pairwise_cons.2 ⟨habove, htail⟩
      · refine List.pairwise_cons.2 ⟨fun c hc => ?_, ih htail⟩
        rcases Memory.mem_write hc with hc | ⟨rfl, -⟩
        · exact habove c hc
        · show k < a
          omega

/-- Every write the machine makes keeps the canonical form. -/
theorem Memory.wf_write {m : Memory} (h : Memory.wf m) (a : Word) (v : Byte) :
    Memory.wf (Memory.write m a.toNat v) := by
  refine ⟨Memory.write_rising h.1 _ _, fun c hc => ?_⟩
  rcases Memory.mem_write hc with hc | ⟨rfl, hv⟩
  · exact h.2 c hc
  · exact ⟨a.isLt, hv⟩

/-- Two canonical memories that read alike everywhere are the same list. -/
theorem Memory.wf_ext {m n : Memory} (hm : Memory.wf m) (hn : Memory.wf n)
    (h : ∀ a, Memory.read m a = Memory.read n a) : m = n := by
  induction m generalizing n with
  | nil =>
    cases n with
    | nil => rfl
    | cons d n =>
      obtain ⟨k, w⟩ := d
      have := h k
      rw [Memory.read_nil, Memory.read_cons, if_pos rfl] at this
      exact absurd this.symm (hn.2 (k, w) (by simp)).2
  | cons c m ih =>
    obtain ⟨k, v⟩ := c
    have hvk := (hm.2 (k, v) (by simp)).2
    have ha := Memory.tail_above hm.1
    cases n with
    | nil =>
      have := h k
      rw [Memory.read_nil, Memory.read_cons, if_pos rfl] at this
      exact absurd this hvk
    | cons d n =>
      obtain ⟨l, w⟩ := d
      have hwl := (hn.2 (l, w) (by simp)).2
      have hb := Memory.tail_above hn.1
      have hkl : k = l := by
        rcases Nat.lt_trichotomy k l with hlt | heq | hgt
        · have h1 := h k
          rw [Memory.read_cons, if_pos rfl, Memory.read_cons, if_neg (by omega),
            Memory.read_below fun c hc => Nat.lt_trans hlt (hb c hc)] at h1
          exact absurd h1 hvk
        · exact heq
        · have h1 := h l
          rw [Memory.read_cons, if_neg (by omega), Memory.read_below fun c hc => Nat.lt_trans hgt (ha c hc),
            Memory.read_cons, if_pos rfl] at h1
          exact absurd h1.symm hwl
      subst l
      have hvw : v = w := by
        have h1 := h k
        simpa [Memory.read_cons] using h1
      subst w
      have hm' : Memory.wf m := ⟨(List.pairwise_cons.1 hm.1).2, fun c hc => hm.2 c (by simp [hc])⟩
      have hn' : Memory.wf n := ⟨(List.pairwise_cons.1 hn.1).2, fun c hc => hn.2 c (by simp [hc])⟩
      rw [ih hm' hn' fun a => ?_]
      by_cases hak : a = k
      · subst a
        rw [Memory.read_below ha, Memory.read_below hb]
      · have h1 := h a
        simpa [Memory.read_cons, hak] using h1

/-- Memory at reset is in canonical form. -/
theorem Memory.wf_reset : Memory.wf State.reset.mem := ⟨.nil, nofun⟩

end Sys2Proof.Machine
end

