-- ==== Sys2Proof/Laws/Ops.lean ====
section
/-! SUPPORT. What each shared operation can answer: one lemma per operation, which later proofs cite instead of unfolding
it. -/

namespace Sys2Proof.Machine

theorem memRead_eq_ok {s : State} {a : Word} {b : Byte} :
    memRead s a = .ok b ↔ inWindow s a = true ∧ inMem s a = true ∧ b = Memory.read s.mem a.toNat := by
  unfold memRead
  split
  next hc =>
    rw [Bool.and_eq_true] at hc
    constructor
    · intro h
      injection h with h
      exact ⟨hc.1, hc.2, h.symm⟩
    · intro h
      rw [h.2.2]
  next hc =>
    rw [Bool.and_eq_true] at hc
    exact ⟨nofun, fun h => (hc ⟨h.1, h.2.1⟩).elim⟩

theorem memRead_eq_error {s : State} {a : Word} {f : Fault} :
    memRead s a = .error f ↔ ¬(inWindow s a = true ∧ inMem s a = true) ∧ f = .bufferOverrun a := by
  unfold memRead
  split
  · rw [Bool.and_eq_true] at *
    exact ⟨nofun, fun h => absurd ‹_› h.1⟩
  · rw [Bool.and_eq_true] at *
    exact ⟨fun h => (by cases h; exact ⟨‹_›, rfl⟩), fun h => (by rw [h.2])⟩

theorem memWrite_eq_ok {s t : State} {a : Word} {v : Byte} :
    memWrite s a v = .ok t ↔
      inWindow s a = true ∧ inMem s a = true ∧ t = { s with mem := Memory.write s.mem a.toNat v } := by
  unfold memWrite
  split
  next hc =>
    rw [Bool.and_eq_true] at hc
    constructor
    · intro h
      injection h with h
      exact ⟨hc.1, hc.2, h.symm⟩
    · intro h
      rw [h.2.2]
  next hc =>
    rw [Bool.and_eq_true] at hc
    exact ⟨nofun, fun h => (hc ⟨h.1, h.2.1⟩).elim⟩

theorem memWrite_eq_error {s : State} {a : Word} {v : Byte} {f : Fault} :
    memWrite s a v = .error f ↔ ¬(inWindow s a = true ∧ inMem s a = true) ∧ f = .bufferOverrun a := by
  unfold memWrite
  split
  · rw [Bool.and_eq_true] at *
    exact ⟨nofun, fun h => absurd ‹_› h.1⟩
  · rw [Bool.and_eq_true] at *
    exact ⟨fun h => (by cases h; exact ⟨‹_›, rfl⟩), fun h => (by rw [h.2])⟩

/-- R48: being in the window is a bound on the address. -/
theorem inWindow_iff {s : State} {a : Word} :
    inWindow s a = true ↔ s.eng.wBeg.toNat ≤ a.toNat ∧ a.toNat < s.eng.wEnd.toNat := by
  simp [inWindow]

/-- R98, R100: a transmit step either completes with no byte left, or sends the byte at W_PTR. -/
theorem transmitNext_next {s t : State} (h : transmitNext s = .next t) :
    (s.eng.wLen = 0 ∧ t = epilogue .complete (setAct actNone s)) ∨
    (s.eng.wLen ≠ 0 ∧ inWindow s s.eng.wPtr = true ∧ inMem s s.eng.wPtr = true ∧
      t = epilogue .proceed
        (setAct actTx (countByte (setDat (Memory.read s.mem s.eng.wPtr.toNat) s)))) := by
  unfold transmitNext at h
  split at h
  · exact .inl ⟨‹_›, by cases h; rfl⟩
  · split at h
    · cases h
    · obtain ⟨hw, hm, rfl⟩ := memRead_eq_ok.1 ‹_›
      exact .inr ⟨‹_›, hw, hm, by cases h; rfl⟩

/-- R105, R106: a store step writes DAT at W_PTR, which is in the window and in MEM. -/
theorem storeReceived_next {s t : State} (h : storeReceived s = .next t) :
    inWindow s s.eng.wPtr = true ∧ inMem s s.eng.wPtr = true ∧
      t = afterStore { s with mem := Memory.write s.mem s.eng.wPtr.toNat s.ctl.dat } := by
  unfold storeReceived at h
  split at h
  · cases h
  · obtain ⟨hw, hm, rfl⟩ := memWrite_eq_ok.1 ‹_›
    exact ⟨hw, hm, by cases h; rfl⟩

/-- R105, R106 after the store: done, or the last byte is asked for with AA clear, or another one is asked for. -/
theorem afterStore_cases (s : State) :
    (lengthAfterByte s = 0 ∧ afterStore s = epilogue .complete (setAct actNone (countByte s))) ∨
    (lengthAfterByte s = 1 ∧ afterStore s = epilogue .proceed (setAct actRx (setAa false (countByte s)))) ∨
    (lengthAfterByte s ≠ 0 ∧ lengthAfterByte s ≠ 1 ∧
      afterStore s = epilogue .proceed (setAct actRx (countByte s))) := by
  have hl : (countByte s).eng.wLen = lengthAfterByte s := rfl
  by_cases h0 : lengthAfterByte s = 0
  · have h1 : lengthAfterByte s ≠ 1 := by rw [h0]; decide
    exact .inl ⟨h0, by rw [afterStore, hl, if_pos h0, if_neg h1]⟩
  · by_cases h1 : lengthAfterByte s = 1
    · exact .inr (.inl ⟨h1, by rw [afterStore, hl, if_neg h0, if_pos h1]⟩)
    · exact .inr (.inr ⟨h0, h1, by rw [afterStore, hl, if_neg h0, if_neg h1]⟩)

/-- R110: what finish leaves. -/
theorem finish_cases (s : State) :
    (s.eng.wWarm = true ∧ finish s =
      { s with status := { s.status with cfg := true, busy := false }, eng := { s.eng with wWarm := false, es := .idle } }) ∨
    (s.eng.wWarm = false ∧ finish s =
      { s with status := { s.status with fail := s.eng.wFail, busy := false }, eng := { s.eng with es := .idle } }) := by
  unfold finish
  cases h : s.eng.wWarm <;> simp

/-- R76: a command has an effect only while BUSY = 0. -/
theorem whenIdle_next {s t : State} {k : State → Result State} (h : whenIdle s k = .next t) :
    s.status.busy = false ∧ k s = .next t := by
  unfold whenIdle at h
  split at h
  · cases h
  · exact ⟨by simp_all, h⟩

/-- R78, R79: a divisor that passes is the half period, in the range of DIV_W. -/
theorem divisor_eq_ok {p b d : Nat} :
    divisor p b = .ok d ↔ b ≠ 0 ∧ d = halfPeriod p b ∧ 0 < d ∧ d < 2 ^ Config.divW := by
  unfold divisor
  split
  · simp_all
  · split
    · constructor
      · intro h; cases h
      · rintro ⟨-, rfl, h1, h2⟩; omega
    · constructor
      · intro h; cases h; exact ⟨‹_›, rfl, by omega, by omega⟩
      · rintro ⟨-, rfl, -, -⟩; rfl

/-- R77, R85: CONFIGURE goes on only on a free bus, with a divisor. -/
theorem execConfigure_next {x : BitVec 30} {s t : State} (h : execConfigure x s = .next t) :
    s.status.busy = false ∧ s.bus.own = .free ∧
      ∃ d, divisor (inputClockHz s) (targetBusHz s) = .ok d ∧
        t = issueTransfer warmupOperands true (configureController d s) := by
  obtain ⟨hb, h⟩ := whenIdle_next h
  split at h
  · cases h
  · have hf : s.bus.own = .free := by cases ho : s.bus.own <;> simp_all
    split at h
    · cases h
    · cases h; exact ⟨hb, hf, _, ‹_›, rfl⟩

/-- R82: TRANSFER goes on only if the window ends inside the address space. -/
theorem execTransfer_next {x : BitVec 30} {s t : State} (h : execTransfer x s = .next t) :
    s.status.busy = false ∧ s.req.buf.toNat + s.req.len.toNat < 2 ^ 32 ∧
      t = issueTransfer (transferOperands s) false s := by
  obtain ⟨hb, h⟩ := whenIdle_next h
  split at h
  · cases h
  · cases h; exact ⟨hb, Nat.lt_of_not_le ‹_›, rfl⟩

/-- R89. -/
theorem execNop_next {x : BitVec 30} {s t : State} (h : execNop x s = .next t) : s.status.busy = false ∧ t = s := by
  obtain ⟨hb, h⟩ := whenIdle_next h
  cases h; exact ⟨hb, rfl⟩

/-- R71: the reserved command never completes. -/
theorem execCmdReserved_ne_next {x : BitVec 30} {s t : State} : execCmdReserved x s ≠ .next t := by
  intro h
  obtain ⟨-, h⟩ := whenIdle_next h
  cases h

end Sys2Proof.Machine
end

