-- ==== Sys2Proof/Laws/Step.lean ====
section
/-! SUPPORT. What one step can do: an inversion lemma for each agent's turn and one for the step. -/

namespace Sys2Proof.Machine

/-- R147: a step answers a next state only in a fault-free state, by the turn of one agent. -/
theorem step_next {s t : State} (h : step s = .next t) :
    s.faults = [] ∧ agentStep (takeAgent s).1 (takeAgent s).2 = .next t := by
  unfold step at h
  split at h
  · cases h
  · exact ⟨‹_›, h⟩

/-- R91: what a turn of the engine can do. -/
theorem engineStep_next {s t : State} (h : engineStep s = .next t) :
    (engineEnabled s = false ∧ t = s) ∨
    (s.eng.es = .start ∧ t = setEs .wait (setSta true s)) ∨
    (s.eng.es = .wait ∧ s.ctl.con.si = true ∧ ∃ i, decodePhase s.ctl.stat = .instr i ∧ exec i s = .next t) ∨
    (s.eng.es = .term ∧ t = termStep s) ∨
    (s.eng.es = .stopWait ∧ s.ctl.con.sto = false ∧ t = finish s) := by
  unfold engineStep at h
  split at h
  case isFalse hn => cases h; exact .inl ⟨by simpa using hn, rfl⟩
  case isTrue he =>
    unfold engineEnabled at he
    cases hes : s.eng.es <;> simp only [hes] at he h
    · cases he
    · cases h; exact .inr (.inl ⟨rfl, rfl⟩)
    · refine .inr (.inr (.inl ⟨rfl, he, ?_⟩))
      simp only [runPhase, statView, he, if_true, decode] at h
      split at h
      · exact ⟨_, ‹_›, h⟩
      · cases h
    · cases h; exact .inr (.inr (.inr (.inl ⟨rfl, rfl⟩)))
    · cases h; exact .inr (.inr (.inr (.inr ⟨rfl, by simpa using he, rfl⟩)))

/-- R118: what a turn of the controller can do. -/
theorem controllerStep_next {s t : State} (h : controllerStep s = .next t) :
    (busRequest s = .nothing ∧ t = s) ∨
    (busRequest s = .stop ∧ t = if s.bus.own = .held then stopHeld s else setSto false s) ∨
    (busRequest s = .start ∧ t = if s.bus.own = .held then startHeld s else startFree s) ∨
    (busRequest s = .transmit ∧ mayTransmit s = true ∧ t = if s.bus.firstTx then txAddress s else txData s) ∨
    (busRequest s = .receive ∧ mayReceive s = true ∧ t = rxData s) := by
  unfold controllerStep at h
  cases hr : busRequest s <;> simp only [hr] at h
  · cases h; exact .inl ⟨rfl, rfl⟩
  · cases h; exact .inr (.inl ⟨rfl, rfl⟩)
  · cases h; exact .inr (.inr (.inl ⟨rfl, rfl⟩))
  · split at h
    · cases h; exact .inr (.inr (.inr (.inl ⟨rfl, ‹_›, rfl⟩)))
    · cases h
  · split at h
    · cases h; exact .inr (.inr (.inr (.inr ⟨rfl, ‹_›, rfl⟩)))
    · cases h
  · cases h

/-- R118: each request, in terms of CON and ACT. -/
theorem busRequest_cases (s : State) :
    (busRequest s = .nothing ∧
      (s.ctl.con.en = false ∨ s.ctl.con.si = true ∨
        (s.ctl.con.sto = false ∧ s.ctl.con.sta = false ∧ s.ctl.act = actNone))) ∨
    (s.ctl.con.en = true ∧ s.ctl.con.si = false ∧
      ((busRequest s = .stop ∧ s.ctl.con.sto = true) ∨
       (busRequest s = .start ∧ s.ctl.con.sto = false ∧ s.ctl.con.sta = true) ∨
       (busRequest s = .transmit ∧ s.ctl.con.sto = false ∧ s.ctl.con.sta = false ∧ s.ctl.act = actTx) ∨
       (busRequest s = .receive ∧ s.ctl.con.sto = false ∧ s.ctl.con.sta = false ∧ s.ctl.act = actRx) ∨
       (busRequest s = .invalid ∧ s.ctl.con.sto = false ∧ s.ctl.con.sta = false ∧
        s.ctl.act ≠ actNone ∧ s.ctl.act ≠ actTx ∧ s.ctl.act ≠ actRx))) := by
  unfold busRequest
  cases s.ctl.con.en <;> cases s.ctl.con.si <;> cases s.ctl.con.sto <;> cases s.ctl.con.sta <;> simp
  split
  · simp_all
  · split
    · simp_all
    · split <;> simp_all [actNone, actTx, actRx]

/-- What a turn of the host can do. -/
theorem hostStep_next {s t : State} (h : hostStep s = .next t) :
    t = s ∨
    (∃ r, t = logReply r (popHost s)) ∨
    (∃ r, t = logReply r s) ∨
    (s.status.busy = false ∧ ∃ r v, t = { popHost s with req := writeReq r v s.req }) ∨
    (∃ w, exec (decodeCmd w) (popHost s) = .next t) ∨
    (∃ a v, ¬(s.status.busy = true ∧ inWindow s a = true) ∧ inMem s a = true ∧
      t = { popHost s with mem := Memory.write s.mem a.toNat v }) := by
  unfold hostStep at h
  split at h
  · cases h; exact .inl rfl
  next a rest hp =>
    cases a with
    | read w off =>
      simp only [hostAccess, hostRead] at h
      split at h
      · cases h
      · split at h
        · cases h; exact .inr (.inl ⟨_, rfl⟩)
        · cases h
    | write w off v =>
      simp only [hostAccess, hostWrite] at h
      split at h
      · cases h
      · split at h
        · cases h
        · split at h
          · exact .inr (.inr (.inr (.inr (.inl ⟨v, h⟩))))
          · split at h
            · cases h
            · cases h; exact .inr (.inr (.inr (.inl ⟨by simp_all, _, _, rfl⟩)))
    | poll =>
      simp only [hostAccess, hostPoll] at h
      cases hb : s.status.busy
      · simp only [hb] at h; cases h; exact .inr (.inl ⟨_, rfl⟩)
      · simp only [hb] at h; cases h; exact .inr (.inr (.inl ⟨_, rfl⟩))
    | bufRead a =>
      simp only [hostAccess, hostBuffer] at h
      split at h
      · cases h
      · split at h
        · cases h; exact .inr (.inl ⟨_, rfl⟩)
        · cases h
    | bufWrite a v =>
      simp only [hostAccess, hostBuffer] at h
      split at h
      · cases h
      · split at h
        · cases h
          exact .inr (.inr (.inr (.inr (.inr ⟨a, v, by simp_all, ‹_›, rfl⟩))))
        · cases h

/-- A CMD word always decodes to one of the four commands (R66). -/
theorem decodeCmd_cases (w : Word) :
    decodeCmd w = .nop (cmdIgnored w) ∨ decodeCmd w = .configure (cmdIgnored w) ∨
    decodeCmd w = .transfer (cmdIgnored w) ∨ decodeCmd w = .cmdReserved (cmdIgnored w) := by
  unfold decodeCmd
  split <;> simp

end Sys2Proof.Machine
end

