-- ==== Sys2Proof/Laws/Controller.lean ====
section
/-! SUPPORT. What each bus action of the controller can leave: one lemma for each action. An answer of the environment
uses up inputs only (`env` and `draws`), so each action is an update of the state with other inputs. -/

namespace Sys2Proof.Machine

/-- The state with other inputs left: what asking the environment does. -/
abbrev withInputs (e : BusEnv) (n : Nat) (s : State) : State := { s with env := e, draws := n }

theorem askGrant_inputs (s : State) : ∃ e n, (askGrant s).2 = withInputs e n s := by
  unfold askGrant; split <;> exact ⟨_, _, rfl⟩

theorem askTx_inputs (s : State) : ∃ e n, (askTx s).2 = withInputs e n s := by
  unfold askTx; split <;> exact ⟨_, _, rfl⟩

theorem askRx_inputs (s : State) : ∃ e n, (askRx s).2 = withInputs e n s := by
  unfold askRx; split <;> exact ⟨_, _, rfl⟩

theorem askRelease_inputs (s : State) : ∃ e n, (askRelease s).2 = withInputs e n s := by
  unfold askRelease; split
  · exact ⟨_, _, rfl⟩
  · split <;> exact ⟨_, _, rfl⟩

/-- R119: the START, or no step. -/
theorem startFree_cases (s : State) : ∃ e n,
    startFree s = enterPhase 0x08 (setBus startedBus (emit .start (withInputs e n s))) ∨
    startFree s = withInputs e n s := by
  obtain ⟨e, n, h⟩ := askGrant_inputs s
  refine ⟨e, n, ?_⟩
  unfold startFree
  split <;> rename_i hq <;> rw [hq] at h <;> cases h <;> simp

/-- R120: the repeated START, or no step. -/
theorem startHeld_cases (s : State) : ∃ e n,
    startHeld s = enterPhase 0x10 (setBus startedBus (emit .rstart (withInputs e n s))) ∨
    startHeld s = withInputs e n s := by
  obtain ⟨e, n, h⟩ := askRelease_inputs s
  refine ⟨e, n, ?_⟩
  unfold startHeld
  split <;> rename_i hq <;> rw [hq] at h <;> cases h <;> simp

/-- R129: the STOP, or no step. -/
theorem stopHeld_cases (s : State) : ∃ e n,
    stopHeld s = setSto false (setBus freeBus (emit .stop (withInputs e n s))) ∨
    stopHeld s = withInputs e n s := by
  obtain ⟨e, n, h⟩ := askRelease_inputs s
  refine ⟨e, n, ?_⟩
  unfold stopHeld
  split <;> rename_i hq <;> rw [hq] at h <;> cases h <;> simp

/-- R122, R124: an address byte is lost to another master, or answered. -/
theorem txAddress_cases (s : State) : ∃ e n,
    txAddress s = arbitrationLost (setAct actNone (withInputs e n s)) ∨
    ∃ a, txAddress s = enterPhase (addressPhase s.ctl.dat a)
      (setBus { s.bus with firstTx := false, mode := addressMode s.ctl.dat a }
        (emit (.addr s.ctl.dat a) (setAct actNone (withInputs e n s)))) := by
  obtain ⟨e, n, h⟩ := askTx_inputs s
  refine ⟨e, n, ?_⟩
  unfold txAddress
  split <;> rename_i hq <;> rw [hq] at h <;> cases h
  · exact .inl rfl
  · exact .inr ⟨_, rfl⟩

/-- R123, R124: a data byte is lost to another master, or answered. -/
theorem txData_cases (s : State) : ∃ e n,
    txData s = arbitrationLost (setAct actNone (withInputs e n s)) ∨
    ∃ a, txData s = enterPhase (if a = .ack then 0x28 else 0x30)
      (emit (.txd s.ctl.dat a) (setAct actNone (withInputs e n s))) := by
  obtain ⟨e, n, h⟩ := askTx_inputs s
  refine ⟨e, n, ?_⟩
  unfold txData
  split <;> rename_i hq <;> rw [hq] at h <;> cases h
  · exact .inl rfl
  · exact .inr ⟨_, rfl⟩

/-- R125, R124: a receive is lost to another master, or brings a byte. -/
theorem rxData_cases (s : State) : ∃ e n,
    rxData s = arbitrationLost (setAct actNone (withInputs e n s)) ∨
    ∃ b, rxData s = enterPhase (if s.ctl.con.aa then 0x50 else 0x58)
      (setBus { s.bus with sdrv := s.ctl.con.aa }
        (emit (.rxd b (if s.ctl.con.aa then .ack else .nack)) (setDat b (setAct actNone (withInputs e n s))))) := by
  obtain ⟨e, n, h⟩ := askRx_inputs s
  refine ⟨e, n, ?_⟩
  unfold rxData
  split <;> rename_i hq <;> rw [hq] at h <;> cases h
  · exact .inl rfl
  · exact .inr ⟨_, rfl⟩

/-- R118: everything a turn of the controller can leave. -/
theorem controllerStep_cases {s t : State} (h : controllerStep s = .next t) :
    (busRequest s = .nothing ∧ t = s) ∨
    (s.ctl.con.en = true ∧ s.ctl.con.si = false ∧ ∃ e n,
      t = withInputs e n s ∨
      (s.ctl.con.sto = true ∧ s.bus.own = .free ∧ t = setSto false s) ∨
      (s.ctl.con.sto = true ∧ s.bus.own = .held ∧ t = setSto false (setBus freeBus (emit .stop (withInputs e n s)))) ∨
      (s.ctl.con.sto = false ∧ s.ctl.con.sta = true ∧ s.bus.own = .free ∧
        t = enterPhase 0x08 (setBus startedBus (emit .start (withInputs e n s)))) ∨
      (s.ctl.con.sto = false ∧ s.ctl.con.sta = true ∧ s.bus.own = .held ∧
        t = enterPhase 0x10 (setBus startedBus (emit .rstart (withInputs e n s)))) ∨
      (s.ctl.con.sto = false ∧ s.ctl.con.sta = false ∧ (s.ctl.act = actTx ∨ s.ctl.act = actRx) ∧ s.bus.own = .held ∧
        t = arbitrationLost (setAct actNone (withInputs e n s))) ∨
      (s.ctl.con.sto = false ∧ s.ctl.con.sta = false ∧ s.ctl.act = actTx ∧ s.bus.own = .held ∧ s.bus.firstTx = true ∧
        ∃ a, t = enterPhase (addressPhase s.ctl.dat a)
          (setBus { s.bus with firstTx := false, mode := addressMode s.ctl.dat a }
            (emit (.addr s.ctl.dat a) (setAct actNone (withInputs e n s))))) ∨
      (s.ctl.con.sto = false ∧ s.ctl.con.sta = false ∧ s.ctl.act = actTx ∧ s.bus.own = .held ∧ s.bus.firstTx = false ∧
        s.bus.mode = .mt ∧
        ∃ a, t = enterPhase (if a = .ack then 0x28 else 0x30)
          (emit (.txd s.ctl.dat a) (setAct actNone (withInputs e n s)))) ∨
      (s.ctl.con.sto = false ∧ s.ctl.con.sta = false ∧ s.ctl.act = actRx ∧ s.bus.own = .held ∧ s.bus.firstTx = false ∧
        s.bus.mode = .mr ∧
        ∃ b, t = enterPhase (if s.ctl.con.aa then 0x50 else 0x58)
          (setBus { s.bus with sdrv := s.ctl.con.aa }
            (emit (.rxd b (if s.ctl.con.aa then .ack else .nack))
              (setDat b (setAct actNone (withInputs e n s))))))) := by
  rcases controllerStep_next h with h1 | ⟨h1, ht⟩ | ⟨h1, ht⟩ | ⟨h1, hm, ht⟩ | ⟨h1, hm, ht⟩
  · exact .inl h1
  all_goals
    rcases busRequest_cases s with ⟨h2, -⟩ | ⟨hen, hsi, hc⟩
    · rw [h2] at h1; cases h1
    refine .inr ⟨hen, hsi, ?_⟩
    simp only [h1, reduceCtorEq, false_and, false_or, or_false, true_and] at hc
    subst ht
  · split
    next ho =>
      obtain ⟨e, n, h | h⟩ := stopHeld_cases s <;> refine ⟨e, n, ?_⟩ <;> simp [hc, ho, h]
    next ho =>
      have hf : s.bus.own = .free := by cases hq : s.bus.own <;> simp_all
      exact ⟨s.env, s.draws, by simp [hc, hf]⟩
  · split
    next ho =>
      obtain ⟨e, n, h | h⟩ := startHeld_cases s <;> refine ⟨e, n, ?_⟩ <;> simp [hc, ho, h]
    next ho =>
      have hf : s.bus.own = .free := by cases hq : s.bus.own <;> simp_all
      obtain ⟨e, n, h | h⟩ := startFree_cases s <;> refine ⟨e, n, ?_⟩ <;> simp [hc, hf, h]
  · have ho : s.bus.own = .held := by simp [mayTransmit] at hm; exact hm.1
    split
    next hf =>
      obtain ⟨e, n, h | ⟨a, h⟩⟩ := txAddress_cases s <;> refine ⟨e, n, ?_⟩ <;> simp [hc, ho, hf, h]
      exact .inr (.inr ⟨a, rfl⟩)
    next hf =>
      have hmt : s.bus.mode = .mt := by simp [mayTransmit] at hm; simp_all
      obtain ⟨e, n, h | ⟨a, h⟩⟩ := txData_cases s <;> refine ⟨e, n, ?_⟩ <;> simp [hc, ho, hf, hmt, h]
      exact .inr (.inr ⟨a, rfl⟩)
  · have hh : s.bus.own = .held ∧ s.bus.firstTx = false ∧ s.bus.mode = .mr := by
      simp [mayReceive] at hm; tauto
    obtain ⟨e, n, h | ⟨b, h⟩⟩ := rxData_cases s <;> refine ⟨e, n, ?_⟩ <;> simp [hc, hh, h]
    exact .inr (.inr ⟨b, rfl⟩)

end Sys2Proof.Machine
end

