-- ==== Sys2Proof/Laws/Fairness.lean ====
section
/-! SUPPORT. What the turn of a fair step does (R137), the states of a run, and runs that come to rest. -/

namespace Sys2Proof.Machine

/-! ### Fair steps -/

/-- What the turn of its agent does where a fair step is enabled. -/
def FairStep.result (f : FairStep) (s : State) : Result State :=
  match f with
  | .start => .next (setEs .wait (setSta true s))
  | .phase => runPhase s
  | .term => .next (termStep s)
  | .stopWait => .next (finish s)
  | .repeatStart => .next (enterPhase 0x10 (setBus startedBus (emit .rstart s)))
  | .address => .next (txAddress s)
  | .data => .next (txData s)
  | .receive => .next (rxData s)
  | .stop => .next (setSto false (setBus freeBus (emit .stop s)))
  | .stopOnFree => .next (setSto false s)

/-- Where a fair step is enabled, the turn of its agent is that step. -/
theorem FairStep.turn {f : FairStep} {s : State} (h : f.enabled s = true) : agentStep f.agent s = f.result s := by
  cases f <;>
    simp only [FairStep.enabled, Bool.and_eq_true, beq_iff_eq, Bool.not_eq_true'] at h <;>
    simp [FairStep.agent, FairStep.result, agentStep, engineStep, engineEnabled, controllerStep, startHeld, stopHeld,
      askRelease, h]

/-- The engine has a step exactly where one of its fair steps is enabled. -/
theorem engineEnabled_iff {s : State} (hs : s.faults = []) :
    engineEnabled s = true ↔ ∃ f : FairStep, f.agent = .engine ∧ f.enabled s = true := by
  constructor
  · intro h
    unfold engineEnabled at h
    cases hes : s.eng.es <;> simp only [hes] at h
    · cases h
    · exact ⟨.start, rfl, by simp [FairStep.enabled, hs, hes]⟩
    · exact ⟨.phase, rfl, by simp [FairStep.enabled, hs, hes, h]⟩
    · exact ⟨.term, rfl, by simp [FairStep.enabled, hs, hes]⟩
    · exact ⟨.stopWait, rfl, by simpa [FairStep.enabled, hs, hes] using h⟩
  · rintro ⟨f, ha, h⟩
    cases f <;> simp_all [FairStep.agent, FairStep.enabled, engineEnabled]

/-- A fair step of the controller is a request that it has. -/
theorem controllerEnabled_of_fair {f : FairStep} {s : State} (ha : f.agent = .controller) (h : f.enabled s = true) :
    controllerEnabled s = true := by
  cases f <;> simp_all [FairStep.agent, FairStep.enabled, controllerEnabled]

/-- A request that no fairness covers is one of the two waits, or an action the bus state does not allow. -/
theorem controllerEnabled_cases {s : State} (hs : s.faults = []) (h : controllerEnabled s = true) :
    (∃ f : FairStep, f.agent = .controller ∧ f.enabled s = true) ∨ waitsForGrant s = true ∨ waitsForRelease s = true ∨
      ∃ a, controllerStep s = .fault (.controllerMisuse a) := by
  cases hr : busRequest s
  case nothing => simp [controllerEnabled, hr] at h
  case stop =>
    cases ho : s.bus.own
    · exact .inl ⟨.stopOnFree, rfl, by simp [FairStep.enabled, hs, hr, ho]⟩
    · cases hd : s.bus.sdrv
      · exact .inl ⟨.stop, rfl, by simp [FairStep.enabled, hs, hr, ho, hd]⟩
      · exact .inr (.inr (.inl (by simp [waitsForRelease, hr, ho, hd])))
  case start =>
    cases ho : s.bus.own
    · exact .inr (.inl (by simp [waitsForGrant, hr, ho]))
    · cases hd : s.bus.sdrv
      · exact .inl ⟨.repeatStart, rfl, by simp [FairStep.enabled, hs, hr, ho, hd]⟩
      · exact .inr (.inr (.inl (by simp [waitsForRelease, hr, ho, hd])))
  case transmit =>
    cases hm : mayTransmit s
    · exact .inr (.inr (.inr ⟨s.ctl.act, by simp [controllerStep, hr, hm]⟩))
    · cases hf : s.bus.firstTx
      · exact .inl ⟨.data, rfl, by simp [FairStep.enabled, hs, hr, hm, hf]⟩
      · exact .inl ⟨.address, rfl, by simp [FairStep.enabled, hs, hr, hm, hf]⟩
  case receive =>
    cases hm : mayReceive s
    · exact .inr (.inr (.inr ⟨s.ctl.act, by simp [controllerStep, hr, hm]⟩))
    · exact .inl ⟨.receive, rfl, by simp [FairStep.enabled, hs, hr, hm]⟩
  case invalid => exact .inr (.inr (.inr ⟨s.ctl.act, by simp [controllerStep, hr]⟩))

/-! ### The states of a run -/

@[simp] theorem stateAt_zero (s : State) : stateAt 0 s = s := rfl

theorem stateAt_succ (n : Nat) (s : State) : stateAt (n + 1) s = stateAt n (advance s) := rfl

theorem stateAt_add (m n : Nat) (s : State) : stateAt (m + n) s = stateAt n (stateAt m s) := by
  induction m generalizing s with
  | zero => simp
  | succ m ih => rw [Nat.add_right_comm, stateAt_succ, stateAt_succ, ih]

theorem stateAt_next (n : Nat) (s : State) : stateAt (n + 1) s = advance (stateAt n s) := stateAt_add n 1 s

/-- What a state has and every step keeps, every later state of its run has. -/
theorem stateAt_induct {P : State → Prop} {s : State} (h0 : P s) (hstep : ∀ t, P t → P (advance t)) (n : Nat) :
    P (stateAt n s) := by
  induction n with
  | zero => exact h0
  | succ n ih => exact stateAt_next n s ▸ hstep _ ih

/-! ### Runs that come to rest -/

/-- Nothing is going on and the host has no access left. -/
def Resting (s : State) : Prop :=
  s.eng.es = .idle ∧ s.ctl.con.si = false ∧ s.ctl.con.sto = false ∧ s.ctl.con.sta = false ∧ s.ctl.act = actNone ∧
    s.host.program = []

theorem resting_not_enabled {s : State} (h : Resting s) (f : FairStep) : f.enabled s = false := by
  obtain ⟨h1, h2, h3, h4, h5, -⟩ := h
  cases f <;> simp [FairStep.enabled, busRequest, h1, h2, h3, h4, h5, actNone, actTx, actRx]

theorem resting_advance {s : State} (h : Resting s) : Resting (advance s) := by
  obtain ⟨h1, h2, h3, h4, h5, h6⟩ := h
  unfold advance step takeAgent
  cases hf : s.faults with
  | cons f _ => simp [Resting, h1, h2, h3, h4, h5, h6]
  | nil =>
    cases hs : s.schedule with
    | cons a _ =>
      cases a <;>
        simp [Resting, agentStep, hostStep, engineStep, engineEnabled, controllerStep, busRequest, h1, h2, h3, h4, h5, h6,
          actNone, actTx, actRx]
    | nil =>
      cases Config.freeAgent s.draws <;>
        simp [Resting, agentStep, hostStep, engineStep, engineEnabled, controllerStep, busRequest, h1, h2, h3, h4, h5, h6,
          actNone, actTx, actRx]

/-- A run that comes to rest is fair: from there on no fair step is enabled. -/
theorem fairRun_of_resting {s : State} (k : Nat) (h : Resting (stateAt k s)) : FairRun s := by
  intro f n hn
  have hr : Resting (stateAt (k + n) s) := stateAt_add k n s ▸ stateAt_induct h (fun _ => resting_advance) n
  exact absurd (hn (k + n) (Nat.le_add_left n k)) (by simp [resting_not_enabled hr f])

end Sys2Proof.Machine
end

