-- ==== Sys2Proof/Laws/Observe.lean ====
section
/-! SUPPORT. What a run shows (R12): the point of observation, and one more state of a run. -/

namespace Sys2Proof.Machine

theorem advance_of_next {s t : State} (h : step s = .next t) : advance s = t := by simp [advance, h]

theorem advance_of_fault {s : State} {f : Fault} (hs : s.faults = []) (h : step s = .fault f) :
    advance s = recordFault f s := by simp [advance, h, hs]

/-- The point of R12, in the terms of its docstring. -/
theorem atObservation_iff {s : State} :
    atObservation s = true ↔
      s.faults = [] ∧ (takeAgent s).1 = .host ∧ s.status.busy = false ∧
      ∃ a rest, s.host.program = a :: rest ∧ a.readsStatus = true ∧ ∀ b ∈ rest, b.isCommand = false := by
  unfold atObservation
  cases hp : s.host.program with
  | nil => simp
  | cons a rest => simp [and_assoc]

/-- No point of observation while a command is in flight. -/
theorem atObservation_busy {s : State} (h : s.status.busy = true) : atObservation s = false := by
  simp [atObservation, h]

@[simp] theorem observeRun_zero (s : State) : observeRun 0 s = ⟨none, s.faults⟩ := rfl

theorem observeRun_at {s : State} (k : Nat) (h : atObservation s = true) :
    observeRun (k + 1) s = ⟨some (observe s), s.faults⟩ := if_pos h

theorem observeRun_before {s : State} (k : Nat) (h : atObservation s = false) :
    observeRun (k + 1) s = observeRun k (advance s) := if_neg (by simp [h])

/-- What holds of the first state of a run, is kept by every step before the point of observation, holds of what the run
shows there, and holds of a run cut short, holds of every run. -/
theorem observeRun_induct {P : State → Prop} {Q : RunObservation → Prop} {s : State} (k : Nat) (h0 : P s)
    (hstep : ∀ t, P t → atObservation t = false → P (advance t))
    (hat : ∀ t, P t → atObservation t = true → Q ⟨some (observe t), t.faults⟩)
    (hcut : ∀ t, P t → Q ⟨none, t.faults⟩) : Q (observeRun k s) := by
  induction k generalizing s with
  | zero => exact hcut s h0
  | succ k ih =>
    cases h : atObservation s with
    | true => exact observeRun_at k h ▸ hat s h0 h
    | false => exact observeRun_before k h ▸ ih (hstep s h0 h)

end Sys2Proof.Machine
end

