-- ==== Sys2Proof/Laws/PerInstr.lean ====
section
/-! SUPPORT. Laws of one statement per instruction. `TableRow`: the code of an instruction, masked with the mask of its row
of spec/opcode_table.json, is the row's match. -/

namespace Sys2Proof.Laws

/-- `match` and `mask` of an instruction's row, from the table. -/
def rowMatch : Instr → Nat × Nat
  | .nop _ => (0x00000000, 0x00000003)
  | .configure _ => (0x00000001, 0x00000003)
  | .transfer _ => (0x00000002, 0x00000003)
  | .cmdReserved _ => (0x00000003, 0x00000003)
  | .started => (0x08, 0xFF)
  | .repeatStarted => (0x10, 0xFF)
  | .addressWriteAcked => (0x18, 0xFF)
  | .addressWriteNacked => (0x20, 0xFF)
  | .dataWriteAcked => (0x28, 0xFF)
  | .dataWriteNacked => (0x30, 0xFF)
  | .arbitrationLost => (0x38, 0xFF)
  | .addressReadAcked => (0x40, 0xFF)
  | .addressReadNacked => (0x48, 0xFF)
  | .dataReadAcked => (0x50, 0xFF)
  | .dataReadNacked => (0x58, 0xFF)

/-- The bits of a code as a number. -/
def codeBits : CodeWord → Nat
  | .cmd w => w.toNat
  | .phase c => c.toNat

/-- The row's mask picks the row's match out of the code. -/
def TableRow.Statement (i : Instr) : Prop := codeBits (encode i) &&& (rowMatch i).2 = (rowMatch i).1

theorem cmdWord_mask (x : BitVec 30) (op : BitVec 2) : (cmdWord x op).toNat &&& 3 = op.toNat := by
  have h : (cmdWord x op).toNat = 4 * x.toNat + op.toNat := by
    rw [cmdWord, BitVec.toNat_append, Nat.shiftLeft_eq, Nat.mul_comm, ← Nat.two_pow_add_eq_or_of_lt op.isLt]
  have h3 : (3 : Nat) = 2 ^ 2 - 1 := rfl
  rw [h, h3, Nat.and_two_pow_sub_one_eq_mod]
  have := op.isLt
  omega

namespace TableRow

theorem nop (x : BitVec 30) : Statement (.nop x) := cmdWord_mask x 0
theorem configure (x : BitVec 30) : Statement (.configure x) := cmdWord_mask x 1
theorem transfer (x : BitVec 30) : Statement (.transfer x) := cmdWord_mask x 2
theorem cmdReserved (x : BitVec 30) : Statement (.cmdReserved x) := cmdWord_mask x 3
theorem started : Statement .started := rfl
theorem repeatStarted : Statement .repeatStarted := rfl
theorem addressWriteAcked : Statement .addressWriteAcked := rfl
theorem addressWriteNacked : Statement .addressWriteNacked := rfl
theorem dataWriteAcked : Statement .dataWriteAcked := rfl
theorem dataWriteNacked : Statement .dataWriteNacked := rfl
theorem arbitrationLost : Statement .arbitrationLost := rfl
theorem addressReadAcked : Statement .addressReadAcked := rfl
theorem addressReadNacked : Statement .addressReadNacked := rfl
theorem dataReadAcked : Statement .dataReadAcked := rfl
theorem dataReadNacked : Statement .dataReadNacked := rfl

end TableRow
end Sys2Proof.Laws
end

