-- ==== Sys2Proof/Tests/Slice0.lean ====
section
/-! SUPPORT. Tests and witnesses. Expected results are the spec's: the vectors V<n> and programs P<n> of
spec/95_test_vectors.md, or a word written out from the named rule. A theorem `wit_…` shows states and operands that meet
the hypotheses of the obligation it names. -/

namespace Sys2Proof.Tests

open Sys2Proof.Machine

/-! ### Helpers -/

/-- The next state, if there is one. -/
def nextOf (r : Result State) : Option State :=
  match r with
  | .next t => some t
  | _ => none

/-- The fault, if there is one. -/
def faultOf (r : Result State) : Option Fault :=
  match r with
  | .fault f => some f
  | _ => none

/-- The start of the vectors of sections 5 to 7: the end state of P1, MEM = 0x1000 to 0x1FFF, and 0x01, 0x02, 0x03 at
0x1000. -/
def configured : State :=
  let s := State.launch [⟨0x1000, 0x1000⟩] [(0x1000, 0x01), (0x1001, 0x02), (0x1002, 0x03)] 0xFE 60 60
  { s with
    req := { s.req with pclk := 12000000, busf := 100000 }
    status := ⟨false, false, true⟩
    eng := { s.eng with wSla := 0xFE, wTstop := true }
    ctl := { s.ctl with con := { s.ctl.con with en := true } }
    trace := [.start, .addr 0xFE .nack, .stop] }

/-- `configured` after a write transfer without trailing stop: the bus is held. -/
def held : State :=
  { configured with
    eng := { configured.eng with wSla := 0xA0, wTstop := false }
    bus := ⟨.held, .mt, false, false⟩
    trace := [.start, .addr 0xA0 .ack] }

/-- The end of V97: the bus held after a one-byte read, with SDRV = 1. -/
def heldDriven : State :=
  { configured with
    eng := { configured.eng with wSla := 0xA1, wBeg := 0x1000, wPtr := 0x1001, wEnd := 0x1001, wTstop := false }
    ctl := { configured.ctl with dat := 0x77, con := { configured.ctl.con with aa := true } }
    bus := ⟨.held, .mr, false, true⟩
    trace := [.start, .addr 0xA1 .ack, .rxd 0x77 .ack] }

/-- `configured` with a request in the request registers. -/
def asking (sla : Byte) (buf len : Word) (ts : Bool) (s : State) : State :=
  { s with req := { s.req with sla := sla, buf := buf, len := len, tstop := ts } }

/-- The host's coming accesses. -/
def hostDoes (p : List HostAccess) (s : State) : State := { s with host := { s.host with program := p } }

/-- The environment's coming answers. -/
def answers (g : List Bool) (tx : List TxAnswer) (rx : List RxAnswer) (rel : List Bool) (s : State) : State :=
  { s with env := ⟨g, tx, rx, rel⟩ }

/-- The coming turns. -/
def turns (l : List Agent) (s : State) : State := { s with schedule := l }

/-- A transfer over 0x1000 to 0x1002 with phase `c` reported, `n` bytes left and W_PTR = `p`. -/
def inPhase (sla c : Byte) (n p : Word) : State :=
  { configured with
    status := { configured.status with busy := true }
    eng :=
      { configured.eng with
        wSla := sla, wBeg := 0x1000, wPtr := p, wEnd := 0x1003, wLen := n, wTstop := false, es := .wait }
    ctl := { configured.ctl with con := { configured.ctl.con with si := true }, stat := c }
    bus := ⟨.held, if slaDir sla then .mr else .mt, false, false⟩
    trace := [.start] }

/-- The controller with action `a` selected on bus `b`, and byte `d` in DAT. -/
def acting (a : Select) (b : BusState) (d : Byte) : State :=
  { configured with ctl := { configured.ctl with act := a, dat := d }, bus := b }

/-! ### Well-formedness: every instruction is well formed; an ill-formed access or statement is refused -/

theorem test_wf_every_command (x : BitVec 30) :
    [Instr.nop x, .configure x, .transfer x, .cmdReserved x].all Instr.wellFormed = true := rfl

theorem test_wf_read_of_cmd : (HostAccess.read .word 0x00).wellFormed = false := by decide
theorem test_wf_read_misaligned : (HostAccess.read .word 0x0A).wellFormed = false := by decide
theorem test_wf_read_byte : (HostAccess.read .byte 0x04).wellFormed = false := by decide
theorem test_wf_read_status : (HostAccess.read .word 0x04).wellFormed = true := by decide
theorem test_wf_write_status : (HostAccess.write .word 0x04 0).wellFormed = false := by decide
theorem test_wf_write_beyond : (HostAccess.write .word 0x40 0).wellFormed = false := by decide
theorem test_wf_write_half : (HostAccess.write .half 0x08 0).wellFormed = false := by decide
theorem test_wf_read_wide : (HostAccess.read .wide 0x08).wellFormed = false := by decide
theorem test_wf_write_opt : (HostAccess.write .word 0x14 1).wellFormed = true := by decide
theorem test_wf_wr_read_only : (HostStmt.wr .con 0).wellFormed = false := by decide
theorem test_wf_wr_too_wide : (HostStmt.wr .buf (2 ^ 32)).wellFormed = false := by decide
theorem test_wf_rd_cmd : (HostStmt.rd .cmd).wellFormed = false := by decide
theorem test_wf_config_too_wide : (HostStmt.config (2 ^ 32) 1).wellFormed = false := by decide
theorem test_wf_xfer_sla : (HostStmt.xfer 256 0 0 0).wellFormed = false := by decide
theorem test_wf_write_address : (HostStmt.write 128 0 0 0).wellFormed = false := by decide
theorem test_wf_read_trailing_stop : (HostStmt.read 0x50 0 0 2).wellFormed = false := by decide
theorem test_wf_write_read_length : (HostStmt.writeRead 0x50 0 (2 ^ 32) 0 0).wellFormed = false := by decide

/-! ### Decoding, from words written out from R64 and R66 -/

theorem test_decode_nop : decode (.cmd 0b00000000000000000000000000000100) = .instr (.nop 1) := by decide
theorem test_decode_configure :
    decode (.cmd 0b11111111111111111111111111111101) = .instr (.configure 0x3FFFFFFF) := by decide
theorem test_decode_transfer : decode (.cmd 0b00000000000000000000000000000010) = .instr (.transfer 0) := by decide
theorem test_decode_cmd_reserved :
    decode (.cmd 0b10000000000000000000000000000011) = .instr (.cmdReserved 0x20000000) := by decide
theorem test_decode_started : decode (.phase 0b00001000) = .instr .started := by decide
theorem test_decode_repeat_started : decode (.phase 0b00010000) = .instr .repeatStarted := by decide
theorem test_decode_address_write_acked : decode (.phase 0b00011000) = .instr .addressWriteAcked := by decide
theorem test_decode_address_write_nacked : decode (.phase 0b00100000) = .instr .addressWriteNacked := by decide
theorem test_decode_data_write_acked : decode (.phase 0b00101000) = .instr .dataWriteAcked := by decide
theorem test_decode_data_write_nacked : decode (.phase 0b00110000) = .instr .dataWriteNacked := by decide
theorem test_decode_arbitration_lost : decode (.phase 0b00111000) = .instr .arbitrationLost := by decide
theorem test_decode_address_read_acked : decode (.phase 0b01000000) = .instr .addressReadAcked := by decide
theorem test_decode_address_read_nacked : decode (.phase 0b01001000) = .instr .addressReadNacked := by decide
theorem test_decode_data_read_acked : decode (.phase 0b01010000) = .instr .dataReadAcked := by decide
theorem test_decode_data_read_nacked : decode (.phase 0b01011000) = .instr .dataReadNacked := by decide
theorem test_decode_no_phase : decode (.phase 0b11111000) = .reject (.reservedPhase 0xF8) := by decide
theorem test_decode_low_bits : decode (.phase 0b00001001) = .reject (.reservedPhase 0x09) := by decide

/-- The rows of spec/opcode_table.json, by the bits it fixes. -/
theorem test_table_rows :
    [decodeTableWord 8 0, decodeTableWord 8 1, decodeTableWord 8 2, decodeTableWord 8 3, decodeTableWord 8 0x08,
      decodeTableWord 8 0x10, decodeTableWord 8 0x18, decodeTableWord 8 0x20, decodeTableWord 8 0x28,
      decodeTableWord 8 0x30, decodeTableWord 8 0x38, decodeTableWord 8 0x40, decodeTableWord 8 0x48,
      decodeTableWord 8 0x50, decodeTableWord 8 0x58, decodeTableWord 32 0, decodeTableWord 32 0x08] =
    [some (.nop 0), some (.configure 0), some (.transfer 0), some (.cmdReserved 0), some .started,
      some .repeatStarted, some .addressWriteAcked, some .addressWriteNacked, some .dataWriteAcked,
      some .dataWriteNacked, some .arbitrationLost, some .addressReadAcked, some .addressReadNacked,
      some .dataReadAcked, some .dataReadNacked, some (.nop 0), some (.nop 2)] := by decide

/-- A TRANSFER and a STARTED run as the first instruction after reset. -/
theorem test_fetch_after_reset :
    (nextOf (step (State.reset.withFetchWord 32 2))).map (fun t => (t.status.busy, t.eng.es)) = some (true, .start) ∧
    (nextOf (step (State.reset.withFetchWord 8 0x08))).map (fun t => (t.ctl.act, t.ctl.con.si)) = some (1, false) := by
  decide

/-- R62 with the addresses of S1 to S3. -/
theorem test_sla_bytes : slaByte 0x50 0 = 0xA0 ∧ slaByte 0x50 1 = 0xA1 ∧ slaByte 0x7F 0 = 0xFE := by decide

/-- R75's two examples. -/
theorem test_access_lines :
    (encodeProgram [.wr .sla 0xA0, .cmdTransfer]).map HostAccess.line =
      [some ['W', ' ', '0', 'x', '0', '8', ' ', '0', 'x', '0', '0', '0', '0', '0', '0', 'A', '0'],
       some ['W', ' ', '0', 'x', '0', '0', ' ', '0', 'x', '0', '0', '0', '0', '0', '0', '0', '2']] := by decide

/-- R74: the access list of P2. -/
theorem test_write_expansion :
    encodeProgram [.write 0x50 0x1000 2 1] =
      [.write .word 0x08 0xA0, .write .word 0x0C 0x1000, .write .word 0x10 2, .write .word 0x14 1,
        .write .word 0x00 2, .poll] := by decide

/-! ### The commands -/

/-- V19. -/
theorem test_nop : nextOf (exec (.nop 0) configured) = some configured := by decide

/-- V31. -/
theorem test_nop_busy :
    faultOf (exec (.nop 0) { configured with status := ⟨true, false, true⟩ }) = some (.hostBusyViolation 0) := by decide

/-- V1, V17: the divisor, and AA does not survive. -/
theorem test_configure :
    (nextOf (exec (.configure 0)
      { configured with ctl := { configured.ctl with con := ⟨true, false, false, false, true⟩ } })).map
      (fun t => (t.ctl.sclh, t.ctl.scll, t.ctl.con.word, t.eng.wSla)) = some (0x3C, 0x3C, 0x40, 0xFE) := by decide

/-- V6. -/
theorem test_configure_divisor_too_big :
    faultOf (exec (.configure 0) { configured with req := ⟨0, 0, 0, false, 13107200, 100⟩ }) =
      some (.configInvalid 65536) := by decide

/-- V34. -/
theorem test_transfer :
    (nextOf (exec (.transfer 0) (asking 0xA0 0x1000 2 true configured))).map
      (fun t => (t.eng.wBeg, t.eng.wPtr, t.eng.wEnd, t.eng.wLen)) = some (0x1000, 0x1000, 0x1002, 2) := by decide

/-- V37. -/
theorem test_transfer_overrun :
    faultOf (exec (.transfer 0) (asking 0xA0 0x10 0xFFFFFFF0 true configured)) = some (.bufferOverrun 0x10) := by decide

/-- V21, by the host's write. -/
theorem test_cmd_reserved :
    faultOf (hostStep (hostDoes [.write .word 0x00 0x00000003] configured)) = some (.illegalCommand 3) := by decide

/-! ### The phase handlers -/

/-- V40. -/
theorem test_started :
    (nextOf (exec .started (inPhase 0xA0 0x08 2 0x1000))).map
      (fun t => (t.ctl.dat, t.ctl.act, t.ctl.con.word)) = some (0xA0, 1, 0x40) := by decide

/-- V41: the pending start is gone. -/
theorem test_repeat_started :
    let s := inPhase 0xA1 0x10 2 0x1000
    (nextOf (exec .repeatStarted { s with ctl := { s.ctl with con := { s.ctl.con with sta := true } } })).map
      (fun t => (t.ctl.dat, t.ctl.act, t.ctl.con.word)) = some (0xA1, 1, 0x40) := by decide

/-- V42. -/
theorem test_address_write_acked :
    (nextOf (exec .addressWriteAcked (inPhase 0xA0 0x18 2 0x1000))).map
      (fun t => (t.ctl.dat, t.eng.wPtr, t.eng.wLen, t.ctl.act)) = some (0x01, 0x1001, 1, 1) := by decide

/-- V43. -/
theorem test_address_write_acked_empty :
    (nextOf (exec .addressWriteAcked (inPhase 0xA0 0x18 0 0x1003))).map
      (fun t => (t.ctl.act, t.eng.es)) = some (0, .term) := by decide

/-- V44. -/
theorem test_address_write_nacked :
    (nextOf (exec .addressWriteNacked (inPhase 0xA0 0x20 2 0x1000))).map
      (fun t => (t.eng.wTstop, t.eng.wFail, t.ctl.act, t.eng.es)) = some (true, true, 0, .term) := by decide

/-- V45. -/
theorem test_data_write_acked :
    (nextOf (exec .dataWriteAcked (inPhase 0xA0 0x28 1 0x1001))).map
      (fun t => (t.ctl.dat, t.eng.wPtr, t.eng.wLen, t.ctl.act)) = some (0x02, 0x1002, 0, 1) := by decide

/-- V47. -/
theorem test_data_write_acked_overrun :
    let s := inPhase 0xA0 0x28 1 0x5001
    faultOf (exec .dataWriteAcked { s with eng := { s.eng with wBeg := 0x5000, wEnd := 0x5002 } }) =
      some (.bufferOverrun 0x5001) := by decide

/-- V48. -/
theorem test_data_write_nacked :
    (nextOf (exec .dataWriteNacked (inPhase 0xA0 0x30 0 0x1003))).map
      (fun t => (t.eng.wTstop, t.eng.wFail, t.eng.es)) = some (true, true, .term) := by decide

/-- V49. -/
theorem test_arbitration_lost :
    (nextOf (exec .arbitrationLost { inPhase 0xA0 0x38 1 0x1002 with bus := freeBus })).map
      (fun t => (t.eng.wTstop, t.eng.wFail, t.bus)) = some (true, true, freeBus) := by decide

/-- V50. -/
theorem test_address_read_acked :
    (nextOf (exec .addressReadAcked (inPhase 0xA1 0x40 3 0x1000))).map
      (fun t => (t.ctl.con.word, t.ctl.act, t.eng.es)) = some (0x44, 2, .wait) := by decide

/-- V52. -/
theorem test_address_read_nacked :
    (nextOf (exec .addressReadNacked (inPhase 0xA1 0x48 3 0x1000))).map
      (fun t => (t.eng.wTstop, t.eng.wFail, t.eng.es)) = some (true, true, .term) := by decide

/-- V54, at 0x1001: AA goes off with one byte to come. -/
theorem test_data_read_acked :
    let s := inPhase 0xA1 0x50 2 0x1001
    (nextOf (exec .dataReadAcked
      { s with ctl := { s.ctl with dat := 0xBB, con := { s.ctl.con with aa := true } } })).map
      (fun t => (Memory.read t.mem 0x1001, t.eng.wLen, t.ctl.con.aa, t.ctl.act)) = some (0xBB, 1, false, 2) := by decide

/-- V56. -/
theorem test_data_read_acked_overrun :
    faultOf (exec .dataReadAcked (inPhase 0xA1 0x50 0 0x1003)) = some (.bufferOverrun 0x1003) := by decide

/-- V57, at 0x1002. -/
theorem test_data_read_nacked :
    let s := inPhase 0xA1 0x58 1 0x1002
    (nextOf (exec .dataReadNacked { s with ctl := { s.ctl with dat := 0xCC } })).map
      (fun t => (Memory.read t.mem 0x1002, t.eng.wLen, t.ctl.act, t.eng.es)) = some (0xCC, 0, 0, .term) := by decide

/-! ### The register window and the controller -/

/-- V23, V25, V26, V27, and R146's code 1 for an access of more than 32 bits. -/
theorem test_bad_accesses :
    [HostAccess.read .word 0x00, .write .word 0x20 0x40, .write .word 0x40 0, .read .half 0x04, .write .wide 0x08 0].map
      (fun a => faultOf (hostStep (hostDoes [a] configured))) =
    [some (.badRegisterAccess 0x00), some (.badRegisterAccess 0x20), some (.badRegisterAccess 0x40),
      some (.badRegisterAccess 0x04), some (.badRegisterAccess 0x08)] := by decide

/-- R12: the point is the read of BUSY = 0 by the host, not one while BUSY = 1, not another agent's turn, and not one with a
command still to come. -/
theorem test_observation_point :
    atObservation (turns [.host] (hostDoes [.poll] configured)) = true ∧
    atObservation (turns [.host] (hostDoes [.read .word 0x04] configured)) = true ∧
    atObservation (turns [.host] (hostDoes [.poll] (inPhase 0xA0 0x28 2 0x1001))) = false ∧
    atObservation (turns [.engine] (hostDoes [.poll] configured)) = false ∧
    atObservation (turns [.host] (hostDoes [.poll, .write .word 0x00 2, .poll] configured)) = false := by decide

/-- V28, V29, V33. -/
theorem test_window_words :
    readReg .sla { configured with req := writeReq .sla 0x000001A5 configured.req } = 0xA5 ∧
    readReg .opt { configured with req := writeReq .opt 0x00000003 configured.req } = 1 ∧
    readReg .stat configured = 0xF8 ∧ statusWord configured = 0x14 := by decide

/-- V69. -/
theorem test_address_byte_acked :
    (nextOf (controllerStep (answers [] [.reply .ack] [] [] (acting 1 startedBus 0xA1)))).map
      (fun t => (t.ctl.stat, t.ctl.act, t.bus, t.trace.getLast?)) =
      some (0x40, 0, ⟨.held, .mr, false, false⟩, some (.addr 0xA1 .ack)) := by decide

/-- V77. -/
theorem test_receive_lost :
    (nextOf (controllerStep (answers [] [] [.arb] [] (acting 2 ⟨.held, .mr, false, false⟩ 0x11)))).map
      (fun t => (t.ctl.stat, t.ctl.dat, t.bus, t.trace.getLast?)) =
      some (0x38, 0x11, freeBus, some .arbLost) := by decide

/-- V85, V86, V87. -/
theorem test_misuse :
    faultOf (controllerStep (acting 1 freeBus 0)) = some (.controllerMisuse 1) ∧
    faultOf (controllerStep (acting 2 ⟨.held, .mt, false, false⟩ 0)) = some (.controllerMisuse 2) ∧
    faultOf (controllerStep (acting 3 startedBus 0)) = some (.controllerMisuse 3) := by decide

/-! ### Witnesses: states in which the invariant holds -/

/-- A command in flight in sequencer state `e`, with nothing pending, `n` bytes left of three, on bus `b`. -/
def ending (e : EngineState) (n p : Word) (ts fl : Bool) (b : BusState) (tr : List BusEvent) : State :=
  { configured with
    req := { configured.req with tstop := ts }
    status := { configured.status with busy := true }
    eng :=
      { configured.eng with
        wSla := 0xA0, wBeg := 0x1000, wPtr := p, wEnd := 0x1003, wLen := n, wTstop := ts, wFail := fl, es := e }
    bus := b
    trace := tr }

theorem wit_inv_configured : Inv configured := by
  constructor <;> (try simp only [PhaseInv, ProgressInv]) <;> first | decide | exact fun h => nomatch h

theorem wit_inv_held : Inv held := by
  constructor <;> (try simp only [PhaseInv, ProgressInv]) <;> first | decide | exact fun h => nomatch h

theorem wit_inv_held_driven : Inv heldDriven := by
  constructor <;> (try simp only [PhaseInv, ProgressInv]) <;> first | decide | exact fun h => nomatch h

/-- A program, answers and turns change nothing the invariant speaks of, nor does a request while BUSY = 0. -/
theorem inv_inputs {s t : State} (h : Inv s) (h0 : t.req = s.req ∨ s.status.busy = false) (h1 : t.status = s.status)
    (h2 : t.eng = s.eng) (h3 : t.ctl = s.ctl) (h4 : t.bus = s.bus) (h5 : t.trace = s.trace) (h6 : t.mem = s.mem) : Inv t := by
  obtain ⟨_, status, eng, ctl, bus, trace, _, mem, _, _, _, _, _⟩ := t
  dsimp only at h0 h1 h2 h3 h4 h5 h6
  subst h1 h2 h3 h4 h5 h6
  refine ⟨h.busyIff, h.phase, h.quiet, h.stoOnly, h.staOnly, h.siOnly, h.waiting, h.transmit, h.receive, h.noThree, h.free,
    h.stopWait, h.idle, h.failForces, ?_, h.ended, h.termHeld, h.progress, h.warm, h.divisors, h.configured, h.owner,
    h.memory⟩
  rcases h0 with rfl | h0
  · exact h.caller
  · exact fun hb => absurd (h0.symm.trans hb) (by decide)

theorem wit_inv_write_phase : Inv (inPhase 0xA0 0x28 2 0x1001) := by
  constructor <;> (try simp only [PhaseInv, ProgressInv]) <;>
    first | decide | exact fun _ => ⟨rfl, rfl, show _ ∧ _ ∧ _ ∧ _ by decide⟩

theorem wit_inv_read_phase : Inv (inPhase 0xA1 0x50 2 0x1001) := by
  constructor <;> (try simp only [PhaseInv, ProgressInv]) <;>
    first | decide | exact fun _ => ⟨rfl, rfl, show _ ∧ _ ∧ _ ∧ _ by decide⟩

/-- Success, to be left held. -/
theorem wit_inv_term : Inv (ending .term 0 0x1003 false false ⟨.held, .mt, false, false⟩ [.start]) := by
  constructor <;> (try simp only [PhaseInv, ProgressInv]) <;> first | decide | exact fun h => nomatch h

/-- Failure, the bus released. -/
theorem wit_inv_stop_wait : Inv (ending .stopWait 2 0x1001 true true freeBus [.start, .stop]) := by
  constructor <;> (try simp only [PhaseInv, ProgressInv]) <;> first | decide | exact fun h => nomatch h

/-- At START. -/
theorem wit_inv_start : Inv (ending .start 3 0x1000 true false freeBus []) := by
  constructor <;> (try simp only [PhaseInv, ProgressInv]) <;> first | decide | exact fun h => nomatch h

/-! ### Witnesses: the hypotheses of the obligations -/

theorem wit_DecodeAndEncodeAgree :
    (Instr.transfer 0x3FFFFFFF).wellFormed = true ∧ decode (.cmd 0xFFFFFFFE) = .instr (.transfer 0x3FFFFFFF) ∧
    decode (.phase 0x58) = .instr .dataReadNacked := by decide

/-- A command written and a phase reported; both clauses of each: a schedule with the agent's turn, and one that has ended. -/
theorem wit_StepRunsTheDecodedInstruction :
    let s := hostDoes [.write .word 0x00 2, .poll] configured
    let u := inPhase 0xA0 0x28 2 0x1001
    (s.faults = [] ∧ s.host.program = .write .word 0x00 2 :: [.poll] ∧ decode (.cmd 2) = .instr (.transfer 0) ∧
      (turns [.host, .engine] s).schedule = .host :: [.engine] ∧ s.schedule = []) ∧
    (u.faults = [] ∧ u.eng.es = .wait ∧ u.ctl.con.si = true ∧ decode (.phase u.ctl.stat) = .instr .dataWriteAcked ∧
      (turns [.engine] u).schedule = .engine :: [] ∧ u.schedule = []) := by decide

/-- V58 and V59, and that the fault of the second and the third clause is raised. -/
theorem wit_UnknownPhaseCodeStops :
    [0x00#8, 0xF8#8].all (fun c =>
      let s := turns [.engine] (inPhase 0xA0 c 2 0x1001)
      decide (s.faults = [] ∧ faultOf (step s) = some (.unknownPhase c) ∧ s.eng.es = .wait ∧ s.ctl.con.si = true ∧
        s.ctl.stat ∉ [0x08#8, 0x10#8, 0x18#8, 0x20#8, 0x28#8, 0x30#8, 0x38#8, 0x40#8, 0x48#8, 0x50#8, 0x58#8] ∧
        faultOf (engineStep s) = some (.unknownPhase c))) = true := by decide

theorem wit_FaultIsFinalAndPrecise :
    let s := turns [.host] (hostDoes [.read .word 0x00] configured)
    s.faults = [] ∧ faultOf (step s) = some (.badRegisterAccess 0x00) ∧
    (nextOf (step (turns [.engine] configured))).isSome = true := by decide

/-- The first and the last readable register, and a poll on an idle and on a busy block. -/
theorem wit_RegisterReadsOnlyRead :
    (hostDoes [.read .word 0x04] configured).host.program = .read .word (Reg.offset .status) :: [] ∧ Reg.status ≠ .cmd ∧
    (hostDoes [.read .word 0x3C] configured).host.program = .read .word (Reg.offset .wptr) :: [] ∧ Reg.wptr ≠ .cmd ∧
    (hostDoes [.poll] configured).host.program = .poll :: [] ∧ configured.status.busy = false ∧
    (inPhase 0xA0 0x28 2 0x1001).status.busy = true := by decide

/-- Each ground, at the edges 0x0A, 0x3D, 0x40, 0x00 for a read and 0x04, 0x20 for a write. -/
theorem wit_BadRegisterAccessStops :
    (AccessWidth.half ≠ .word ∧ 0x0A % 4 ≠ 0 ∧ 0x3C < 0x3D ∧ 0x3C < 0x40 ∧ 0x1C < 0x20) ∧
    (hostDoes [.read .word 0x40] configured).host.program = .read .word 0x40 :: [] ∧
    (hostDoes [.write .word 0x20 0x40] configured).host.program = .write .word 0x20 0x40 :: [] := by decide

/-- The six offsets. -/
theorem wit_RequestWriteStores :
    [0x08, 0x0C, 0x10, 0x14, 0x18, 0x1C].all (fun off =>
      let s := hostDoes [.write .word off 0x000001A5] configured
      decide (s.host.program = .write .word off 0x000001A5 :: [] ∧ s.status.busy = false ∧
        (nextOf (hostStep s)).isSome = true)) = true := by decide

/-- V30, V32: a write, a read and a poll while BUSY = 1. -/
theorem wit_BusyRequestWriteStops :
    let s := inPhase 0xA0 0x28 2 0x1001
    s.status.busy = true ∧
    (hostDoes [.write .word 0x08 0] s).host.program = .write .word 0x08 0 :: [] ∧
    (hostDoes [.write .word 0x1C 0] s).host.program = .write .word 0x1C 0 :: [] ∧
    (hostDoes [.read .word 0x38] s).host.program = .read .word (Reg.offset .wlen) :: [] ∧ Reg.wlen ≠ .cmd ∧
    (hostDoes [.poll] s).host.program = .poll :: [] := by decide

/-- V31; V20's word and the plain NOP have the same `op`. -/
theorem wit_CommandWriteReadsBusyAndOp :
    let s := hostDoes [.write .word 0x00 3] (inPhase 0xA0 0x28 2 0x1001)
    s.status.busy = true ∧ s.host.program = .write .word 0x00 3 :: [] ∧ decode (.cmd 3) = .instr (.cmdReserved 0) ∧
    (4#32).toNat % 4 = (0#32).toNat % 4 ∧ (0#32).toNat % 4 ≠ 3 := by decide

/-- The window's two ends while BUSY = 1; the first byte past it; the window of an idle block. -/
theorem wit_BorrowedBufferStopsTheHost :
    let s := inPhase 0xA0 0x28 2 0x1001
    s.status.busy = true ∧ s.eng.wBeg.toNat ≤ (0x1000#32).toNat ∧ (0x1000#32).toNat < s.eng.wEnd.toNat ∧
    s.eng.wBeg.toNat ≤ (0x1002#32).toNat ∧ (0x1002#32).toNat < s.eng.wEnd.toNat ∧
    ¬(s.status.busy = true ∧ s.eng.wBeg.toNat ≤ (0x1003#32).toNat ∧ (0x1003#32).toNat < s.eng.wEnd.toNat) ∧
    inMem s 0x1003 = true ∧
    (hostDoes [.bufRead 0x1002] s).host.program = .bufRead 0x1002 :: [] ∧
    (hostDoes [.bufWrite 0x1003 7] s).host.program = .bufWrite 0x1003 7 :: [] := by decide

/-- The first byte past MEM, idle and busy. -/
theorem wit_AbsentBufferByteIsRefused :
    configured.status.busy = false ∧ inMem configured 0x2000 = false ∧
    (inPhase 0xA0 0x28 2 0x1001).eng.wEnd.toNat ≤ (0x2000#32).toNat ∧
    (hostDoes [.bufRead 0x2000] configured).host.program = .bufRead 0x2000 :: [] ∧
    (hostDoes [.bufWrite 0x2000 1] configured).host.program = .bufWrite 0x2000 1 :: [] := by decide

/-- A store that adds a cell, and one of what an unlisted byte reads as. -/
theorem wit_BufferWriteThenRead :
    [0x07#8, 0x00#8].all (fun v =>
      let s := hostDoes [.bufWrite 0x1001 v] configured
      decide (Memory.wf s.mem ∧ s.host.program = .bufWrite 0x1001 v :: [] ∧
        (nextOf (hostStep s)).isSome = true)) = true := by decide

theorem wit_NopChangesNothing :
    configured.status.busy = false ∧ (inPhase 0xA0 0x28 2 0x1001).status.busy = true := by decide

/-- The smallest and the largest divisor (V4, V5); then what stops: V14; V9; V7 and V6. -/
theorem wit_ConfigureIssuesOrStops :
    [(2000#32, 1000#32, 1), (13107000#32, 100#32, 65535)].all (fun (p, b, d) =>
      let s := { configured with req := ⟨0, 0, 0, false, p, b⟩ }
      decide (s.status.busy = false ∧ s.bus.own = .free ∧ s.req.busf.toNat ≠ 0 ∧
        d = s.req.pclk.toNat / s.req.busf.toNat / 2 ∧ 0 < d ∧ d < 65536)) = true ∧
    (held.status.busy = false ∧ held.bus.own = .held) ∧ (configured.status.busy = false ∧ configured.bus.own = .free) ∧
    1000 / 1000 / 2 = 0 ∧ 13107200 / 100 / 2 = 65536 := by decide

theorem wit_DivisorKeepsTheBusAtOrAboveTarget :
    divisor 14745600 100000 = .ok 73 ∧ divisor 13107000 100 = .ok 65535 := by decide

/-- V16. -/
theorem wit_ConfigureIsIdempotent :
    (nextOf (exec (.configure 0) configured)).isSome = true ∧
    (nextOf (exec (.configure 5) configured)).isSome = true := by decide

/-- V35 and V36. -/
theorem wit_TransferIssues :
    configured.status.busy = false ∧ (0xFFFFFFFE#32).toNat + (1#32).toNat < 2 ^ 32 ∧
    2 ^ 32 ≤ (0xFFFFFFFF#32).toNat + (1#32).toNat := by decide

theorem wit_ReservedCommandStops :
    let s := hostDoes [.write .word 0x00 7] configured
    s.status.busy = false ∧ s.host.program = .write .word 0x00 7 :: [] ∧ (7#32).toNat % 4 = 3 ∧ (4#32).toNat % 4 = 0 :=
  by decide

/-- NOP, CONFIGURE and TRANSFER answer a next state. -/
theorem wit_CommandFrame :
    [0#32, 1#32, 2#32].all (fun w => (nextOf (exec (decodeCmd w) configured)).isSome) = true := by decide

/-- The codes of the instructions named in the hypotheses; nothing is asked of the state. -/
theorem wit_StartAndReadAckedPhasesProceed :
    [0x08#8, 0x10#8, 0x40#8].map (fun c => decode (.phase c)) =
      [.instr .started, .instr .repeatStarted, .instr .addressReadAcked] := by decide

theorem wit_FailurePhasesForceTheStop :
    [0x20#8, 0x30#8, 0x38#8, 0x48#8].map (fun c => decode (.phase c)) =
      [.instr .addressWriteNacked, .instr .dataWriteNacked, .instr .arbitrationLost, .instr .addressReadNacked] := by
  decide

/-- The first and the last byte of the window; no byte left; a byte left just past the window, and just before it. -/
theorem wit_WriteAckedSendsEndsOrStops :
    [(3#32, 0x1000#32), (1#32, 0x1002#32)].all (fun (n, p) =>
      let s := inPhase 0xA0 0x28 n p
      decide (0 < s.eng.wLen.toNat ∧ s.eng.wBeg.toNat ≤ s.eng.wPtr.toNat ∧ s.eng.wPtr.toNat < s.eng.wEnd.toNat ∧
        inMem s s.eng.wPtr = true)) = true ∧
    (inPhase 0xA0 0x28 0 0x1003).eng.wLen = 0 ∧ (inPhase 0xA0 0x28 1 0x1003).eng.wLen ≠ 0 ∧
    (inPhase 0xA0 0x28 1 0x1003).eng.wEnd.toNat ≤ (inPhase 0xA0 0x28 1 0x1003).eng.wPtr.toNat ∧
    (inPhase 0xA0 0x28 1 0x0FFF).eng.wPtr.toNat < (inPhase 0xA0 0x28 1 0x0FFF).eng.wBeg.toNat := by decide

/-- The last byte but one, and the last: the two that change AA and the outcome. -/
theorem wit_DataReadStoresTheByte :
    [(2#32, 0x1001#32), (1#32, 0x1002#32)].all (fun (n, p) =>
      let s := inPhase 0xA1 0x50 n p
      decide (Memory.wf s.mem ∧ 0 < s.eng.wLen.toNat ∧ s.eng.wBeg.toNat ≤ s.eng.wPtr.toNat ∧
        s.eng.wPtr.toNat < s.eng.wEnd.toNat ∧ inMem s s.eng.wPtr = true)) = true := by decide

/-- A zero-length read's first byte (V56). -/
theorem wit_DataReadOverrunStops :
    let s := inPhase 0xA1 0x50 0 0x1003
    s.eng.wEnd.toNat ≤ s.eng.wPtr.toNat ∧ ProgressInv s ∧ s.eng.wLen = 0 := by
  refine ⟨by decide, ?_, by decide⟩
  unfold ProgressInv
  decide

theorem wit_DataReadWithNoLengthIsFree :
    let s := inPhase 0xA1 0x50 0 0x1002
    s.eng.wLen = 0 ∧ s.eng.wBeg.toNat ≤ s.eng.wPtr.toNat ∧ s.eng.wPtr.toNat < s.eng.wEnd.toNat ∧
    inMem s s.eng.wPtr = true := by decide

/-- Each phase answers a next state. -/
theorem wit_PhaseHandlerFrame :
    phaseTable.all (fun (c, i) =>
      decide (decode (.phase c) = .instr i) && (nextOf (exec i (inPhase 0xA1 c 2 0x1001))).isSome) = true := by decide

/-- Each clause: START; IDLE, WAIT and STOPWAIT with nothing to do; TERM with and without a STOP; STOPWAIT released. -/
theorem wit_EngineSteps :
    let e := fun es ts sto => let s := ending es 0 0x1003 ts false freeBus []
      { s with ctl := { s.ctl with con := { s.ctl.con with sto := sto } } }
    (e .start true false).eng.es = .start ∧ (e .idle true false).eng.es = .idle ∧
    ((e .wait true false).eng.es = .wait ∧ (e .wait true false).ctl.con.si = false) ∧
    ((e .stopWait true true).eng.es = .stopWait ∧ (e .stopWait true true).ctl.con.sto = true) ∧
    ((e .term true false).eng.es = .term ∧ (e .term true false).eng.wTstop = true) ∧
    ((e .term false false).eng.es = .term ∧ (e .term false false).eng.wTstop = false) ∧
    ((e .stopWait true false).eng.es = .stopWait ∧ (e .stopWait true false).ctl.con.sto = false) := by decide

/-- An engine turn at START, in a state of the invariant, changes the sequencer state. -/
theorem wit_SequencerTransitions :
    Inv (turns [.engine] (ending .start 3 0x1000 true false freeBus [])) ∧
    (nextOf (step (turns [.engine] (ending .start 3 0x1000 true false freeBus [])))).map (fun t => t.eng.es) =
      some .wait :=
  ⟨inv_inputs wit_inv_start (.inl rfl) rfl rfl rfl rfl rfl rfl, by decide⟩

/-- V64, V65; V66; the three with SDRV = 1. -/
theorem wit_StartOrRepeatedStart :
    let s := fun (b : BusState) => answers [true] [] [] [false]
      { configured with ctl := { configured.ctl with con := { configured.ctl.con with sta := true } }, bus := b }
    (s freeBus).ctl.con = ⟨false, false, false, true, true⟩ ∧
    ((s freeBus).bus.own = .free ∧ (askGrant (s freeBus)).1 = true) ∧
    ((s ⟨.held, .mt, false, false⟩).bus.own = .held ∧ (s ⟨.held, .mt, false, false⟩).bus.sdrv = false) ∧
    ((s ⟨.held, .mr, false, true⟩).bus.sdrv = true ∧ (askRelease (s ⟨.held, .mr, false, true⟩)).1 = false) := by
  decide

/-- V67, V69 and V72: address bytes with `dir` 0 and 1, and a data byte; the three answers. -/
theorem wit_TransmitReports :
    let s := fun (b : BusState) (d : Byte) (a : TxAnswer) => answers [] [a] [] [] (acting 1 b d)
    [startedBus, ⟨.held, .mt, false, false⟩].all (fun b => [0xA0#8, 0xA1#8].all fun d =>
      [TxAnswer.reply .ack, .reply .nack, .arb].all fun a =>
        let s := s b d a
        decide (s.ctl.con = ⟨false, false, false, false, true⟩ ∧ s.ctl.act = 1 ∧ s.bus.own = .held ∧
          (s.bus.firstTx = true ∨ s.bus.mode = .mt) ∧ (askTx s).1 = a)) = true := by decide

/-- V75, V76, V77. -/
theorem wit_DataByteReceive :
    [RxAnswer.byte 0xAA, .arb].all (fun a => [true, false].all fun aa =>
      let s := acting 2 ⟨.held, .mr, false, false⟩ 0x11
      let s := answers [] [] [a] [] { s with ctl := { s.ctl with con := { s.ctl.con with aa := aa } } }
      decide (s.ctl.con = ⟨aa, false, false, false, true⟩ ∧ s.ctl.act = 2 ∧ s.bus.own = .held ∧
        s.bus.firstTx = false ∧ s.bus.mode = .mr ∧ (askRx s).1 = a)) = true := by decide

/-- V78, V79, V81. -/
theorem wit_StopComesFirst :
    let s := fun (b : BusState) => answers [] [] [] [false]
      { configured with ctl := { configured.ctl with con := { configured.ctl.con with sto := true } }, bus := b }
    (s freeBus).ctl.con = ⟨false, false, true, false, true⟩ ∧ (s freeBus).bus.own = .free ∧
    ((s ⟨.held, .mt, false, false⟩).bus.own = .held ∧ (s ⟨.held, .mt, false, false⟩).bus.sdrv = false) ∧
    ((s ⟨.held, .mr, false, true⟩).bus.sdrv = true ∧ (askRelease (s ⟨.held, .mr, false, true⟩)).1 = false) := by
  decide

/-- A transmit, and a turn with nothing to do. -/
theorem wit_ControllerFrame :
    (nextOf (controllerStep (answers [] [.reply .ack] [] [] (acting 1 startedBus 0xA0)))).isSome = true ∧
    (nextOf (controllerStep configured)).isSome = true := by decide

theorem wit_ActIsUsedUp :
    let s := answers [] [.reply .ack] [.byte 7] [] (acting 1 startedBus 0xA0)
    let u := answers [] [] [.byte 7] [] (acting 2 ⟨.held, .mr, false, false⟩ 0)
    (s.ctl.con = ⟨false, false, false, false, true⟩ ∧ s.ctl.act = 1 ∧ (nextOf (controllerStep s)).isSome = true) ∧
    (u.ctl.con = ⟨false, false, false, false, true⟩ ∧ u.ctl.act = 2 ∧ (nextOf (controllerStep u)).isSome = true) ∧
    (configured.ctl.act = 0 ∧ (nextOf (controllerStep configured)).isSome = true) := by decide

/-- A turn of the engine that stores a byte, in a state of the invariant. -/
theorem wit_StepKeepsTheInvariant :
    Inv (turns [.engine] (inPhase 0xA1 0x50 2 0x1001)) ∧
    (nextOf (step (turns [.engine] (inPhase 0xA1 0x50 2 0x1001)))).isSome = true :=
  ⟨inv_inputs wit_inv_read_phase (.inl rfl) rfl rfl rfl rfl rfl rfl, by decide⟩

/-- A command in flight; then a controller disabled, with a phase pending, and with nothing requested (V83, V84). -/
theorem wit_EngineAndControllerTakeTurns :
    (Inv (inPhase 0xA0 0x28 2 0x1001) ∧ (inPhase 0xA0 0x28 2 0x1001).status.busy = true ∧
      (inPhase 0xA0 0x28 2 0x1001).ctl.con.en = true) ∧
    (State.launch [] [] 0 0 0).ctl.con.en = false ∧ (inPhase 0xA0 0x28 2 0x1001).ctl.con.si = true ∧
    (held.ctl.con.sto = false ∧ held.ctl.con.sta = false ∧ held.ctl.act = 0) :=
  ⟨⟨wit_inv_write_phase, by decide⟩, by decide⟩

theorem wit_NoMisuseByThisEngine : Inv held ∧ held.faults = [] := ⟨wit_inv_held, rfl⟩

theorem wit_ExactlyOnePhaseIsActive :
    PhaseInv (turns [.engine] (inPhase 0xA1 0x50 2 0x1001)) ∧
    (nextOf (step (turns [.engine] (inPhase 0xA1 0x50 2 0x1001)))).isSome = true := by
  refine ⟨?_, by decide⟩
  unfold PhaseInv
  decide

/-- V78 as a step of the machine. -/
theorem wit_OwnFollowsTheTrace :
    let s := turns [.controller]
      { held with ctl := { held.ctl with con := { held.ctl.con with sto := true } } }
    s.bus.own = ownOfTrace s.trace ∧ (nextOf (step s)).map (fun t => t.bus.own) = some .free := by decide

/-- A transmit handler, which moves both counters. -/
theorem wit_ProgressIsKept :
    let s := turns [.engine] (inPhase 0xA0 0x28 2 0x1001)
    ProgressInv s ∧ (takeAgent s).1 ≠ .host ∧ (nextOf (step s)).map (fun t => t.eng.wLen) = some 1 := by
  refine ⟨?_, by decide, by decide⟩
  unfold ProgressInv
  decide

/-- A success that leaves the bus held, and a failure. -/
theorem wit_TransferResultContract :
    let s := turns [.engine] (ending .term 0 0x1003 false false ⟨.held, .mt, false, false⟩ [.start])
    let u := turns [.engine] (ending .stopWait 2 0x1001 true true freeBus [.start, .stop])
    (Inv s ∧ s.status.busy = true ∧ s.eng.wWarm = false ∧
      (nextOf (step s)).map (fun t => (t.status.busy, t.status.fail)) = some (false, false)) ∧
    (Inv u ∧ u.status.busy = true ∧ u.eng.wWarm = false ∧
      (nextOf (step u)).map (fun t => (t.status.busy, t.status.fail)) = some (false, true)) :=
  ⟨⟨inv_inputs wit_inv_term (.inl rfl) rfl rfl rfl rfl rfl rfl, by decide⟩,
    ⟨inv_inputs wit_inv_stop_wait (.inl rfl) rfl rfl rfl rfl rfl rfl, by decide⟩⟩

/-- A CONFIGURE with another divisor. -/
theorem wit_OnlyConfigureSetsTheClock :
    let s := turns [.host] (hostDoes [.write .word 0x00 1] { configured with req := ⟨0, 0, 0, false, 2000, 1000⟩ })
    (nextOf (step s)).map (fun t => (t.ctl.sclh, s.ctl.sclh)) = some (1, 60) ∧
    (nextOf (exec (.configure 0) configured)).isSome = true := by decide

/-- An engine turn; a host turn with no CMD write. -/
theorem wit_WhoWritesWhat :
    let s := turns [.engine] (inPhase 0xA0 0x28 2 0x1001)
    let u := turns [.host] (hostDoes [.write .word 0x08 0xA0] configured)
    ((takeAgent s).1 ≠ .host ∧ (nextOf (step s)).isSome = true) ∧
    ((takeAgent u).1 = .host ∧ (nextOf (step u)).isSome = true ∧
      u.host.program.head? = some (.write .word 0x08 0xA0)) := by decide

/-- A write phase and a read phase in states of the invariant; the START handler of a read selects TX; a fault. -/
theorem wit_DirectionDecidesTheHandlers :
    (Inv (inPhase 0xA0 0x28 2 0x1001) ∧ decode (.phase 0x28) = .instr .dataWriteAcked ∧
      (nextOf (engineStep (inPhase 0xA0 0x28 2 0x1001))).isSome = true) ∧
    (Inv (inPhase 0xA1 0x50 2 0x1001) ∧ decode (.phase 0x50) = .instr .dataReadAcked ∧
      (nextOf (engineStep (inPhase 0xA1 0x50 2 0x1001))).isSome = true) ∧
    (nextOf (engineStep (inPhase 0xA1 0x10 3 0x1000))).map (fun t => t.ctl.act) = some 1 ∧
    faultOf (engineStep (inPhase 0xA1 0x50 0 0x1003)) = some (.bufferOverrun 0x1003) :=
  ⟨⟨wit_inv_write_phase, by decide⟩, ⟨wit_inv_read_phase, by decide⟩, by decide⟩

/-- A failed transfer waiting in STOPWAIT with its STOP released, and the turns of the bound. -/
theorem wit_EveryCommandEnds :
    let l := (List.replicate 12 [Agent.engine, .controller]).flatten
    let s := turns l (answers [true] [] [] [true, true]
      (ending .stopWait 2 0x1001 true true freeBus [.start, .stop]))
    Inv s ∧ s.faults = [] ∧ s.status.busy = true ∧ s.ctl.con.en = true ∧ s.schedule = l ++ [] ∧
    (List.replicate (2 * s.eng.wLen.toNat + 8) [Agent.engine, .controller]).flatten.Sublist l ∧
    (∀ n, n ≤ l.length → (nextOf (Host.Core.run core n s)).isSome = true) :=
  ⟨inv_inputs wit_inv_stop_wait (.inl rfl) rfl rfl rfl rfl rfl rfl, rfl, rfl, rfl, rfl, List.Sublist.refl _, by decide⟩

/-- A write of three bytes from its START step on, its start granted at the second asking: the run is fair, and ends. -/
theorem wit_FairRunEndsOrWaits :
    let s := turns ([.engine, .controller] ++ (transferSchedule 3 true).drop 2)
      (answers [false, true] (List.replicate 4 (.reply .ack)) [] [] (ending .start 3 0x1000 true false freeBus []))
    Inv s ∧ s.faults = [] ∧ s.status.busy = true ∧ FairRun s ∧ s.ctl.con.en = true ∧
    (stateAt 15 s).status.busy = false :=
  ⟨inv_inputs wit_inv_start (.inl rfl) rfl rfl rfl rfl rfl rfl, rfl, rfl,
    fairRun_of_resting 15 (by unfold Resting; decide), rfl, by decide⟩

/-- A wait for the grant, and a STOP that SDRV = 1 blocks: neither is a fair step (R137). -/
theorem test_waits_are_not_fair :
    let s := fun (sta sto : Bool) (b : BusState) =>
      { configured with ctl := { configured.ctl with con := ⟨false, false, sto, sta, true⟩ }, bus := b }
    waitsForGrant (s true false freeBus) = true ∧ waitsForRelease (s false true ⟨.held, .mr, false, true⟩) = true ∧
    [FairStep.start, .phase, .term, .stopWait, .repeatStart, .address, .data, .receive, .stop, .stopOnFree].all (fun f =>
      !f.enabled (s true false freeBus) && !f.enabled (s false true ⟨.held, .mr, false, true⟩)) = true ∧
    FairStep.enabled .stop (s false true ⟨.held, .mr, false, false⟩) = true := by decide

/-- V104, after the engine's START step. -/
theorem wit_TransferBeforeConfigureHangs :
    let s := State.launch [] [] 0 0 0
    let s := turns [.controller] { s with status := { s.status with busy := true }, eng := { s.eng with es := .wait } }
    s.status.busy = true ∧ s.eng.es = .wait ∧ s.ctl.con.si = false ∧ s.ctl.con.en = false ∧
    (nextOf (step s)).isSome = true := by decide

/-- P1 with V12's answer. -/
theorem wit_ConfigureRunsToIdle :
    let s := turns (transferSchedule 0 true) (answers [true] [.arb] [] [] (hostDoes [.write .word 0x00 1, .poll] configured))
    s.faults = [] ∧ s.status.busy = false ∧ s.bus.own = .free ∧ s.host.program = .write .word 0x00 1 :: [.poll] ∧
    (1#32).toNat % 4 = 1 ∧ divisor s.req.pclk.toNat s.req.busf.toNat = .ok 60 ∧
    s.schedule = transferSchedule 0 true ++ [] ∧ s.env.grants = true :: [] ∧ s.env.tx = .arb :: [] := by decide

/-- The states from which the whole transfers run: `s` configured or held, with a request and the turns of the run. -/
def ready (s : State) (sla : Byte) (n : Word) (ts : Bool) (l : List Agent) : State :=
  turns l (hostDoes [.write .word 0x00 2, .poll] (asking sla 0x1000 n ts s))

theorem window_exists {s : State} {n : Nat} (h : s.memMap = [⟨0x1000, 0x1000⟩]) (hn : n ≤ 0x1000) :
    windowExists s 0x1000 n := by
  intro a h1 h2
  simp only [inMem, h, List.any_cons, List.any_nil, Bool.or_false, Bool.and_eq_true, decide_eq_true_eq]
  omega

/-- P2 with three bytes on a free bus, a probe on a held one, and a byte on one held with SDRV = 1. -/
theorem wit_WriteTransferRunsToIdle :
    let s := answers [true] (List.replicate 4 (.reply .ack)) [] [] (ready configured 0xA0 3 true (transferSchedule 3 true))
    let u := answers [] (List.replicate 1 (.reply .ack)) [] [] (ready held 0xA0 0 false (transferSchedule 0 false))
    let v := answers [] (List.replicate 2 (.reply .ack)) [] [true]
      (ready heldDriven 0xA0 1 true (transferSchedule 1 true))
    (Inv s ∧ Inv u ∧ Inv v) ∧ windowExists s 0x1000 3 ∧
    (s.faults = [] ∧ s.status.busy = false ∧ s.ctl.con.en = true ∧ s.host.program = .write .word 0x00 2 :: [.poll] ∧
      s.req.len.toNat = 3 ∧ s.req.buf.toNat = 0x1000 ∧ slaDir s.req.sla = false ∧ s.req.tstop = true ∧
      s.bus.own = .free ∧ s.env.grants = true :: []) ∧
    (u.faults = [] ∧ u.status.busy = false ∧ u.ctl.con.en = true ∧ u.req.len.toNat = 0 ∧ u.req.tstop = false ∧
      u.bus.own = .held ∧ u.bus.sdrv = false) ∧
    (v.bus.own = .held ∧ v.bus.sdrv = true ∧ v.env.releases = true :: []) :=
  ⟨⟨inv_inputs wit_inv_configured (.inr rfl) rfl rfl rfl rfl rfl rfl,
    inv_inputs wit_inv_held (.inr rfl) rfl rfl rfl rfl rfl rfl,
    inv_inputs wit_inv_held_driven (.inr rfl) rfl rfl rfl rfl rfl rfl⟩, window_exists rfl (by decide), by decide⟩

/-- P3's second transfer, three bytes on a held bus; V97 on a free bus; V98's read on a bus held with SDRV = 1. -/
theorem wit_ReadTransferRunsToIdle :
    let s := answers [] [.reply .ack] [.byte 0xAA, .byte 0xBB, .byte 0xCC] []
      (ready held 0xA1 3 true (transferSchedule 3 true))
    let u := answers [true] [.reply .ack] [.byte 0x77] [] (ready configured 0xA1 1 false (transferSchedule 1 false))
    let v := answers [] [.reply .ack] [.byte 0x77] [true, true] (ready heldDriven 0xA1 1 true (transferSchedule 1 true))
    (Inv s ∧ Inv u ∧ Inv v) ∧ windowExists s 0x1000 3 ∧
    (s.faults = [] ∧ s.status.busy = false ∧ s.ctl.con.en = true ∧
      s.host.program = .write .word 0x00 2 :: [.poll] ∧ s.req.len.toNat = 3 ∧ s.req.buf.toNat = 0x1000 ∧
      slaDir s.req.sla = true ∧ s.schedule = transferSchedule 3 s.req.tstop ++ [] ∧ s.env.tx = .reply .ack :: [] ∧
      s.env.rx = [0xAA#8, 0xBB#8, 0xCC#8].map RxAnswer.byte ++ [] ∧ s.bus.own = .held ∧ s.bus.sdrv = false) ∧
    (u.req.len.toNat = 1 ∧ u.bus.own = .free ∧ u.env.grants = true :: [] ∧ u.bus.sdrv = false ∧
      u.req.tstop = false) ∧
    (v.req.len.toNat = 1 ∧ v.bus.own = .held ∧ v.bus.sdrv = true ∧ v.env.releases = true :: true :: []) :=
  ⟨⟨inv_inputs wit_inv_held (.inr rfl) rfl rfl rfl rfl rfl rfl,
    inv_inputs wit_inv_configured (.inr rfl) rfl rfl rfl rfl rfl rfl,
    inv_inputs wit_inv_held_driven (.inr rfl) rfl rfl rfl rfl rfl rfl⟩, window_exists rfl (by decide), by decide⟩

/-- V99, with one further turn of each. -/
theorem wit_SingleByteReadCanHang :
    let s := answers [true] [.reply .ack] [.byte 0x77] [false] (ready configured 0xA1 1 true
      [.host, .engine, .controller, .engine, .controller, .engine, .controller, .engine, .engine, .controller, .engine])
    Inv s ∧ s.faults = [] ∧ s.status.busy = false ∧ s.ctl.con.en = true ∧ s.bus.own = .free ∧ s.req.len = 1 ∧
    s.req.buf.toNat + 1 < 2 ^ 32 ∧ inMem s s.req.buf = true ∧ slaDir s.req.sla = true ∧ s.req.tstop = true ∧
    s.schedule = [.host, .engine, .controller, .engine, .controller, .engine, .controller, .engine, .engine] ++
      (List.replicate 1 [Agent.controller, .engine]).flatten ++ [] ∧
    s.env.releases = List.replicate 1 false ++ [] :=
  ⟨inv_inputs wit_inv_configured (.inr rfl) rfl rfl rfl rfl rfl rfl, by decide⟩

/-- V89 and V101: a probe on a free bus, a read on a held one, and one on a bus held with SDRV = 1. -/
theorem wit_AddressNackForcesTheStop :
    let s := answers [true] [.reply .nack] [] [] (ready configured 0xA0 0 true (transferSchedule 0 true))
    let u := answers [] [.reply .nack] [] [] (ready held 0xFF 1 false (transferSchedule 0 true))
    let v := answers [] [.reply .nack] [] [true] (ready heldDriven 0xFF 1 false (transferSchedule 0 true))
    (Inv s ∧ Inv u ∧ Inv v) ∧ s.req.buf.toNat + s.req.len.toNat < 2 ^ 32 ∧ s.env.tx = .reply .nack :: [] ∧
    s.bus.own = .free ∧ s.env.grants = true :: [] ∧ u.bus.own = .held ∧ u.bus.sdrv = false ∧
    v.bus.own = .held ∧ v.bus.sdrv = true ∧ v.env.releases = true :: [] :=
  ⟨⟨inv_inputs wit_inv_configured (.inr rfl) rfl rfl rfl rfl rfl rfl,
    inv_inputs wit_inv_held (.inr rfl) rfl rfl rfl rfl rfl rfl,
    inv_inputs wit_inv_held_driven (.inr rfl) rfl rfl rfl rfl rfl rfl⟩, by decide⟩

/-- P2 with three bytes, its start granted at the second asking, the host polling once on the way: the run comes to the
point of R12. -/
theorem wit_WriteTransferObserved :
    let s := answers [false, true] (List.replicate 4 (.reply .ack)) [] []
      (ready configured 0xA0 3 true
        ([.host, .engine, .host, .controller] ++ (transferSchedule 3 true).drop 2 ++ [.host]))
    Inv s ∧ windowExists s 0x1000 3 ∧ s.faults = [] ∧ s.status.busy = false ∧ s.ctl.con.en = true ∧
    s.host.program = [.write .word 0x00 2, .poll] ∧ s.req.len.toNat = 3 ∧ s.req.buf.toNat = 0x1000 ∧
    slaDir s.req.sla = false ∧ s.env.tx = List.replicate 4 (.reply .ack) ++ [] ∧
    (observeRun 20 s).seen.map (fun o => o.status) = some 0x14 :=
  ⟨inv_inputs wit_inv_configured (.inr rfl) rfl rfl rfl rfl rfl rfl, window_exists rfl (by decide), by decide⟩

/-- V98, the STOP allowed at the second asking. -/
theorem wit_ReadTransferObserved :
    let s := answers [true] [.reply .ack] [.byte 0x77] [false, true]
      (ready configured 0xA1 1 true ((transferSchedule 1 true).dropLast ++ [.host, .controller, .engine, .host]))
    Inv s ∧ windowExists s 0x1000 1 ∧ s.faults = [] ∧ s.status.busy = false ∧ s.ctl.con.en = true ∧
    s.host.program = [.write .word 0x00 2, .poll] ∧ s.req.len.toNat = 1 ∧ s.req.buf.toNat = 0x1000 ∧
    slaDir s.req.sla = true ∧ s.env.tx = .reply .ack :: [] ∧ s.env.rx = [0x77#8].map RxAnswer.byte ++ [] ∧
    (observeRun 20 s).seen.map (fun o => o.status) = some 0x14 :=
  ⟨inv_inputs wit_inv_configured (.inr rfl) rfl rfl rfl rfl rfl rfl, window_exists rfl (by decide), by decide⟩

/-- V97, a success; V95, a failure; V102, a run that faults and shows no triple. -/
theorem wit_TransferContractObserved :
    let s := answers [true] [.reply .ack] [.byte 0x77] []
      (ready configured 0xA1 1 false (transferSchedule 1 false ++ [.host]))
    let u := answers [true] [.arb] [] [] (ready configured 0xA0 2 true (transferSchedule 0 true ++ [.host]))
    let v := answers [true] [.reply .ack] [.byte 0x77] []
      (ready configured 0xA1 0 true (transferSchedule 1 true ++ [.host]))
    (Inv s ∧ Inv u ∧ Inv v) ∧
    (s.faults = [] ∧ s.status.busy = false ∧ s.host.program = [.write .word 0x00 2, .poll] ∧
      (observeRun 12 s).seen.map (fun o => o.status) = some 0x0C) ∧
    (observeRun 12 u).seen.map (fun o => o.status) = some 0x16 ∧
    observeRun 12 v = ⟨none, [.bufferOverrun 0x1000]⟩ :=
  ⟨⟨inv_inputs wit_inv_configured (.inr rfl) rfl rfl rfl rfl rfl rfl,
    inv_inputs wit_inv_configured (.inr rfl) rfl rfl rfl rfl rfl rfl,
    inv_inputs wit_inv_configured (.inr rfl) rfl rfl rfl rfl rfl rfl⟩, by decide⟩

end Sys2Proof.Tests
end

section
/-! SUPPORT. The moves of a command: every turn of engine or controller that changes the block, in a state of the
invariant, is one of sixteen (R91, R96 to R106, R119 to R130). -/

namespace Sys2Proof.Machine

/-! ### States that differ in inputs and in the host's log only -/

/-- The states differ only in inputs used up (turns, grants and releases, free values) and in what the host has read. -/
def Alike (s t : State) : Prop :=
  ∃ l e n g, t = { s with schedule := l, env := e, draws := n, host := { s.host with log := g } } ∧
    e.tx = s.env.tx ∧ e.rx = s.env.rx

theorem Alike.refl (s : State) : Alike s s := ⟨s.schedule, s.env, s.draws, s.host.log, rfl, rfl, rfl⟩

theorem Alike.trans {s t u : State} (h : Alike s t) (h' : Alike t u) : Alike s u := by
  obtain ⟨_, _, _, _, rfl, h1, h2⟩ := h
  obtain ⟨l, e, n, g, rfl, h3, h4⟩ := h'
  exact ⟨l, e, n, g, rfl, h3.trans h1, h4.trans h2⟩

theorem alike_withInputs {s : State} {e : BusEnv} (n : Nat) (htx : e.tx = s.env.tx) (hrx : e.rx = s.env.rx) :
    Alike s (withInputs e n s) := ⟨s.schedule, e, n, s.host.log, rfl, htx, hrx⟩

theorem alike_logReply (s : State) (r : HostReply) : Alike s (logReply r s) :=
  ⟨s.schedule, s.env, s.draws, _, rfl, rfl, rfl⟩

/-- Taking a turn uses up inputs only. -/
theorem alike_takeAgent (s : State) : Alike s (takeAgent s).2 := by
  unfold takeAgent; split <;> exact ⟨_, _, _, _, rfl, rfl, rfl⟩

/-! ### Answers of the environment -/

/-- Asking for a grant leaves the answers to bytes alone. -/
theorem askGrant_keeps (s : State) :
    ∃ e n, (askGrant s).2 = withInputs e n s ∧ e.tx = s.env.tx ∧ e.rx = s.env.rx := by
  unfold askGrant; split <;> exact ⟨_, _, rfl, rfl, rfl⟩

/-- Asking for a release leaves the answers to bytes alone. -/
theorem askRelease_keeps (s : State) :
    ∃ e n, (askRelease s).2 = withInputs e n s ∧ e.tx = s.env.tx ∧ e.rx = s.env.rx := by
  unfold askRelease; split
  · exact ⟨_, _, rfl, rfl, rfl⟩
  · split <;> exact ⟨_, _, rfl, rfl, rfl⟩

/-- `a` is what a list of answers gives next, where it gives anything. -/
def Next {α : Type} (l : List α) (a : α) : Prop := ∀ x, l.head? = some x → x = a

/-- The answer to a transmitted byte is the next one of its list, which loses it. -/
theorem askTx_next (s : State) :
    Next s.env.tx (askTx s).1 ∧
    ∃ e n, (askTx s).2 = withInputs e n s ∧ e.tx = s.env.tx.tail ∧ e.rx = s.env.rx := by
  unfold askTx Next; split
  next h => exact ⟨by simp [h], _, _, rfl, by simp [h], rfl⟩
  next h => exact ⟨by simp [h], _, _, rfl, by simp [h], rfl⟩

/-- The answer to a receive is the next one of its list, which loses it. -/
theorem askRx_next (s : State) :
    Next s.env.rx (askRx s).1 ∧
    ∃ e n, (askRx s).2 = withInputs e n s ∧ e.tx = s.env.tx ∧ e.rx = s.env.rx.tail := by
  unfold askRx Next; split
  next h => exact ⟨by simp [h], _, _, rfl, rfl, by simp [h]⟩
  next h => exact ⟨by simp [h], _, _, rfl, rfl, by simp [h]⟩

/-! ### Moves -/

/-- The phase a START or a repeated START is reported with (R119, R120). -/
def startPhase (o : Own) : Byte :=
  match o with
  | .free => 0x08
  | .held => 0x10

/-- The steps of a command that engine and controller make in states of the invariant, each with the control state it is
made in. -/
inductive Move (s : State) : State → Prop
  /-- R92. -/
  | requestStart (hes : s.eng.es = .start) : Move s (setEs .wait (setSta true s))
  /-- R119, R120: the START or repeated START is made. -/
  | start (e : BusEnv) (n : Nat) (htx : e.tx = s.env.tx) (hrx : e.rx = s.env.rx)
      (hes : s.eng.es = .wait) (hen : s.ctl.con.en = true) (hsi : s.ctl.con.si = false) (hsta : s.ctl.con.sta = true) :
      Move s (enterPhase (startPhase s.bus.own) (setBus startedBus (emit (startEvent s.bus.own) (withInputs e n s))))
  /-- R96, R97. -/
  | placeAddress (hes : s.eng.es = .wait) (hsi : s.ctl.con.si = true) (hsta : s.ctl.con.sta = true)
      (hbus : s.bus = startedBus) : Move s (placeAddress s)
  /-- R122: the address byte is answered. -/
  | address (e : BusEnv) (n : Nat) (a : Ack) (htx : e.tx = s.env.tx.tail) (hrx : e.rx = s.env.rx)
      (hans : Next s.env.tx (.reply a))
      (hes : s.eng.es = .wait) (hen : s.ctl.con.en = true) (hsi : s.ctl.con.si = false) (hsta : s.ctl.con.sta = false)
      (hact : s.ctl.act = actTx) (hown : s.bus.own = .held) (hfirst : s.bus.firstTx = true)
      (hdat : s.ctl.dat = s.eng.wSla) :
      Move s (enterPhase (addressPhase s.ctl.dat a)
        (setBus { s.bus with firstTx := false, mode := addressMode s.ctl.dat a }
          (emit (.addr s.ctl.dat a) (setAct actNone (withInputs e n s)))))
  /-- R123: a data byte is answered. -/
  | send (e : BusEnv) (n : Nat) (a : Ack) (htx : e.tx = s.env.tx.tail) (hrx : e.rx = s.env.rx)
      (hans : Next s.env.tx (.reply a))
      (hes : s.eng.es = .wait) (hen : s.ctl.con.en = true) (hsi : s.ctl.con.si = false) (hsta : s.ctl.con.sta = false)
      (hact : s.ctl.act = actTx) (hown : s.bus.own = .held) (hfirst : s.bus.firstTx = false) (hmode : s.bus.mode = .mt)
      (hdir : slaDir s.eng.wSla = false) :
      Move s (enterPhase (if a = .ack then 0x28 else 0x30) (emit (.txd s.ctl.dat a) (setAct actNone (withInputs e n s))))
  /-- R125: a byte arrives. -/
  | receive (e : BusEnv) (n : Nat) (b : Byte) (htx : e.tx = s.env.tx) (hrx : e.rx = s.env.rx.tail)
      (hans : Next s.env.rx (.byte b))
      (hes : s.eng.es = .wait) (hen : s.ctl.con.en = true) (hsi : s.ctl.con.si = false) (hsta : s.ctl.con.sta = false)
      (hact : s.ctl.act = actRx) (hown : s.bus.own = .held) (hfirst : s.bus.firstTx = false) (hmode : s.bus.mode = .mr)
      (hdir : slaDir s.eng.wSla = true) :
      Move s (enterPhase (if s.ctl.con.aa then 0x50 else 0x58)
        (setBus { s.bus with sdrv := s.ctl.con.aa }
          (emit (.rxd b (if s.ctl.con.aa then .ack else .nack)) (setDat b (setAct actNone (withInputs e n s))))))
  /-- R124: the byte in transfer is lost to another master. -/
  | lose (e : BusEnv) (n : Nat)
      (hans : s.ctl.act = actTx ∧ Next s.env.tx .arb ∨ s.ctl.act = actRx ∧ Next s.env.rx .arb)
      (hes : s.eng.es = .wait) (hen : s.ctl.con.en = true) (hsi : s.ctl.con.si = false) (hsta : s.ctl.con.sta = false)
      (hown : s.bus.own = .held) : Move s (arbitrationLost (setAct actNone (withInputs e n s)))
  /-- R98, R100, with a byte left. -/
  | sendNext (hes : s.eng.es = .wait) (hsi : s.ctl.con.si = true) (hstat : s.ctl.stat = 0x18 ∨ s.ctl.stat = 0x28)
      (hsta : s.ctl.con.sta = false) (hown : s.bus.own = .held) (hfirst : s.bus.firstTx = false)
      (hmode : s.bus.mode = .mt) (hdir : slaDir s.eng.wSla = false) (hlen : s.eng.wLen ≠ 0) :
      Move s (epilogue .proceed (setAct actTx (countByte (setDat (Memory.read s.mem s.eng.wPtr.toNat) s))))
  /-- R98, R100, with none left. -/
  | sendDone (hes : s.eng.es = .wait) (hsi : s.ctl.con.si = true) (hstat : s.ctl.stat = 0x18 ∨ s.ctl.stat = 0x28)
      (hsta : s.ctl.con.sta = false) (hown : s.bus.own = .held) (hdir : slaDir s.eng.wSla = false)
      (hlen : s.eng.wLen = 0) : Move s (epilogue .complete (setAct actNone s))
  /-- R99, R101, R102, R104. -/
  | fail (hes : s.eng.es = .wait) (hsi : s.ctl.con.si = true)
      (hstat : s.ctl.stat = 0x20 ∨ s.ctl.stat = 0x30 ∨ s.ctl.stat = 0x38 ∨ s.ctl.stat = 0x48)
      (hsta : s.ctl.con.sta = false) : Move s (failTransfer s)
  /-- R103. -/
  | receiveFirst (hes : s.eng.es = .wait) (hsi : s.ctl.con.si = true) (hstat : s.ctl.stat = 0x40)
      (hsta : s.ctl.con.sta = false) (hown : s.bus.own = .held) (hfirst : s.bus.firstTx = false)
      (hmode : s.bus.mode = .mr) (hdir : slaDir s.eng.wSla = true) :
      Move s (epilogue .proceed (setAct actRx (setAa true s)))
  /-- R105, R106. -/
  | store (hes : s.eng.es = .wait) (hsi : s.ctl.con.si = true) (hstat : s.ctl.stat = 0x50 ∨ s.ctl.stat = 0x58)
      (hsta : s.ctl.con.sta = false) (hown : s.bus.own = .held) (hfirst : s.bus.firstTx = false)
      (hmode : s.bus.mode = .mr) (hdir : slaDir s.eng.wSla = true) (hlen : s.eng.wLen ≠ 0) :
      Move s (afterStore { s with mem := Memory.write s.mem s.eng.wPtr.toNat s.ctl.dat })
  /-- R108, with the trailing stop. -/
  | requestStop (hes : s.eng.es = .term) (hts : s.eng.wTstop = true) : Move s (setEs .stopWait (setSto true s))
  /-- R108 without the trailing stop, R109. -/
  | finish (h : s.eng.es = .term ∧ s.eng.wTstop = false ∨ s.eng.es = .stopWait ∧ s.ctl.con.sto = false) :
      Move s (finish s)
  /-- R129: the STOP is made. -/
  | stop (e : BusEnv) (n : Nat) (htx : e.tx = s.env.tx) (hrx : e.rx = s.env.rx) (hes : s.eng.es = .stopWait)
      (hsto : s.ctl.con.sto = true) (hown : s.bus.own = .held) :
      Move s (setSto false (setBus freeBus (emit .stop (withInputs e n s))))
  /-- R130. -/
  | stopOnFree (hes : s.eng.es = .stopWait) (hsto : s.ctl.con.sto = true) (hown : s.bus.own = .free) :
      Move s (setSto false s)

/-! ### The facts of the invariant that a move starts from -/

/-- A request that is not a STOP is made in WAIT. -/
theorem Inv.es_of_request {s : State} (h : Inv s)
    (hr : s.ctl.con.sta = true ∨ s.ctl.act ≠ actNone) : s.eng.es = .wait := by
  by_contra hes
  obtain ⟨-, hact, hsta⟩ := h.quiet hes
  simp [hact, hsta] at hr

/-- A reported phase is handled in WAIT. -/
theorem Inv.es_of_si {s : State} (h : Inv s) (hsi : s.ctl.con.si = true) : s.eng.es = .wait := by
  by_contra hes
  simp [(h.quiet hes).1] at hsi

/-- With a phase reported that is not a start's, no start is pending. -/
theorem Inv.sta_of_bus {s : State} (h : Inv s) (hsi : s.ctl.con.si = true) (hbus : s.bus ≠ startedBus) :
    s.ctl.con.sta = false := by
  by_contra hsta
  exact hbus ((h.staOnly (by simpa using hsta)).2 hsi)

/-- A start phase is pending with its start. -/
theorem Inv.started {s : State} (h : Inv s) (hsi : s.ctl.con.si = true)
    (hstat : s.ctl.stat = 0x08 ∨ s.ctl.stat = 0x10) : s.ctl.con.sta = true ∧ s.bus = startedBus := by
  have hfits := (h.siOnly hsi).2.2
  rcases hstat with hstat | hstat <;> simpa [PhaseFits, hstat] using hfits

/-- A write phase is pending on a held bus in MT. -/
theorem Inv.writing {s : State} (h : Inv s) (hsi : s.ctl.con.si = true)
    (hstat : s.ctl.stat = 0x18 ∨ s.ctl.stat = 0x28) :
    s.bus.own = .held ∧ s.bus.firstTx = false ∧ s.bus.mode = .mt ∧ slaDir s.eng.wSla = false := by
  have hfits := (h.siOnly hsi).2.2
  rcases hstat with hstat | hstat <;> simpa [PhaseFits, hstat] using hfits

/-- A read phase is pending on a held bus in MR. -/
theorem Inv.reading {s : State} (h : Inv s) (hsi : s.ctl.con.si = true)
    (hstat : s.ctl.stat = 0x40 ∨ s.ctl.stat = 0x50 ∨ s.ctl.stat = 0x58) :
    s.bus.own = .held ∧ s.bus.firstTx = false ∧ s.bus.mode = .mr ∧ slaDir s.eng.wSla = true := by
  have hfits := (h.siOnly hsi).2.2
  rcases hstat with hstat | hstat | hstat <;> simpa [PhaseFits, hstat] using hfits

/-- A failure phase is pending with no first byte to come. -/
theorem Inv.failing {s : State} (h : Inv s) (hsi : s.ctl.con.si = true)
    (hstat : s.ctl.stat = 0x20 ∨ s.ctl.stat = 0x30 ∨ s.ctl.stat = 0x38 ∨ s.ctl.stat = 0x48) :
    s.bus.firstTx = false := by
  have hfits := (h.siOnly hsi).2.2
  rcases hstat with hstat | hstat | hstat | hstat <;> simp [PhaseFits, hstat] at hfits <;> simp [hfits, freeBus]

theorem bus_ne_startedBus {b : BusState} (h : b.firstTx = false) : b ≠ startedBus := by
  rintro rfl; cases h

/-- R115: where W_PTR is in the window, a byte is left. -/
theorem ProgressInv.wLen_ne_zero {s : State} (h : ProgressInv s) (hw : inWindow s s.eng.wPtr = true) :
    s.eng.wLen ≠ 0 := by
  obtain ⟨h1, h2, h3⟩ := h
  have := inWindow_iff.1 hw
  intro h0
  simp [h0] at h3
  omega

/-- R115: where a byte is left, W_PTR is in the window. -/
theorem ProgressInv.inWindow {s : State} (h : ProgressInv s) (h0 : s.eng.wLen ≠ 0) : inWindow s s.eng.wPtr = true := by
  obtain ⟨h1, h2, h3⟩ := h
  have : s.eng.wLen.toNat ≠ 0 := fun hn => h0 (BitVec.eq_of_toNat_eq hn)
  exact inWindow_iff.2 ⟨h1, by omega⟩

/-- R80: the warm-up moves no byte. -/
theorem Inv.wLen_of_warm {s : State} (h : Inv s) (hw : s.eng.wWarm = true) : s.eng.wLen = 0 := by
  obtain ⟨-, -, hlen, -⟩ := h.warm hw
  exact hlen

/-! ### Every turn that changes the block is a move -/

/-- R64, R96 to R106: the eleven phases run five handlers. -/
theorem exec_phase_cases {c : Byte} {i : Instr} (hd : decodePhase c = .instr i) (s : State) :
    (c = 0x08 ∨ c = 0x10) ∧ exec i s = .next (placeAddress s) ∨
    (c = 0x18 ∨ c = 0x28) ∧ exec i s = transmitNext s ∨
    (c = 0x20 ∨ c = 0x30 ∨ c = 0x38 ∨ c = 0x48) ∧ exec i s = .next (failTransfer s) ∨
    c = 0x40 ∧ exec i s = .next (epilogue .proceed (setAct actRx (setAa true s))) ∨
    (c = 0x50 ∨ c = 0x58) ∧ exec i s = storeReceived s := by
  rcases decodePhase_cases hd with ⟨rfl, rfl⟩ | ⟨rfl, rfl⟩ | ⟨rfl, rfl⟩ | ⟨rfl, rfl⟩ | ⟨rfl, rfl⟩ | ⟨rfl, rfl⟩ |
    ⟨rfl, rfl⟩ | ⟨rfl, rfl⟩ | ⟨rfl, rfl⟩ | ⟨rfl, rfl⟩ | ⟨rfl, rfl⟩
  · exact .inl ⟨.inl rfl, rfl⟩
  · exact .inl ⟨.inr rfl, rfl⟩
  · exact .inr (.inl ⟨.inl rfl, rfl⟩)
  · exact .inr (.inr (.inl ⟨.inl rfl, rfl⟩))
  · exact .inr (.inl ⟨.inr rfl, rfl⟩)
  · exact .inr (.inr (.inl ⟨.inr (.inl rfl), rfl⟩))
  · exact .inr (.inr (.inl ⟨.inr (.inr (.inl rfl)), rfl⟩))
  · exact .inr (.inr (.inr (.inl ⟨rfl, rfl⟩)))
  · exact .inr (.inr (.inl ⟨.inr (.inr (.inr rfl)), rfl⟩))
  · exact .inr (.inr (.inr (.inr ⟨.inl rfl, rfl⟩)))
  · exact .inr (.inr (.inr (.inr ⟨.inr rfl, rfl⟩)))

/-- R93: a handler's run is a move. -/
theorem exec_phase_move {s t : State} {i : Instr} (h : Inv s) (hsi : s.ctl.con.si = true)
    (hd : decodePhase s.ctl.stat = .instr i) (ht : exec i s = .next t) : Move s t := by
  have hes := h.es_of_si hsi
  rcases exec_phase_cases hd s with ⟨hstat, he⟩ | ⟨hstat, he⟩ | ⟨hstat, he⟩ | ⟨hstat, he⟩ | ⟨hstat, he⟩ <;>
    rw [he] at ht
  · obtain ⟨hsta, hbus⟩ := h.started hsi hstat
    cases ht
    exact .placeAddress hes hsi hsta hbus
  · obtain ⟨hown, hfirst, hmode, hdir⟩ := h.writing hsi hstat
    have hsta := h.sta_of_bus hsi (bus_ne_startedBus hfirst)
    rcases transmitNext_next ht with ⟨h0, rfl⟩ | ⟨h0, -, -, rfl⟩
    · exact .sendDone hes hsi hstat hsta hown hdir h0
    · exact .sendNext hes hsi hstat hsta hown hfirst hmode hdir h0
  · cases ht
    exact .fail hes hsi hstat (h.sta_of_bus hsi (bus_ne_startedBus (h.failing hsi hstat)))
  · obtain ⟨hown, hfirst, hmode, hdir⟩ := h.reading hsi (.inl hstat)
    cases ht
    exact .receiveFirst hes hsi hstat (h.sta_of_bus hsi (bus_ne_startedBus hfirst)) hown hfirst hmode hdir
  · obtain ⟨hown, hfirst, hmode, hdir⟩ := h.reading hsi (.inr hstat)
    have hsta := h.sta_of_bus hsi (bus_ne_startedBus hfirst)
    obtain ⟨hw, -, rfl⟩ := storeReceived_next ht
    exact .store hes hsi hstat hsta hown hfirst hmode hdir (h.progress.wLen_ne_zero hw)

/-- R91: a turn of the engine changes nothing, or is a move. -/
theorem engineStep_move {s t : State} (h : Inv s) (ht : engineStep s = .next t) :
    engineEnabled s = false ∧ t = s ∨ Move s t := by
  rcases engineStep_next ht with h0 | ⟨hes, rfl⟩ | ⟨-, hsi, i, hd, hi⟩ | ⟨hes, rfl⟩ | ⟨hes, hsto, rfl⟩
  · exact .inl h0
  · exact .inr (.requestStart hes)
  · exact .inr (exec_phase_move h hsi hd hi)
  · cases hts : s.eng.wTstop
    · rw [termStep, hts]
      exact .inr (.finish (.inl ⟨hes, hts⟩))
    · rw [termStep, hts]
      exact .inr (.requestStop hes hts)
  · exact .inr (.finish (.inr ⟨hes, hsto⟩))

/-- R119: a turn that asks for a START on a free bus. -/
theorem startFree_move {s : State} (hes : s.eng.es = .wait) (hen : s.ctl.con.en = true) (hsi : s.ctl.con.si = false)
    (hsta : s.ctl.con.sta = true) (hown : s.bus.own = .free) :
    Alike s (startFree s) ∨ Move s (startFree s) := by
  obtain ⟨e, n, hq, htx, hrx⟩ := askGrant_keeps s
  unfold startFree
  split <;> rename_i hs <;> rw [hs] at hq <;> cases hq
  · exact .inr (by simpa [startPhase, startEvent, hown] using Move.start e n htx hrx hes hen hsi hsta)
  · exact .inl (alike_withInputs n htx hrx)

/-- R120, R131: a turn that asks for a repeated START. -/
theorem startHeld_move {s : State} (hes : s.eng.es = .wait) (hen : s.ctl.con.en = true) (hsi : s.ctl.con.si = false)
    (hsta : s.ctl.con.sta = true) (hown : s.bus.own = .held) :
    Alike s (startHeld s) ∨ Move s (startHeld s) := by
  obtain ⟨e, n, hq, htx, hrx⟩ := askRelease_keeps s
  unfold startHeld
  split <;> rename_i hs <;> rw [hs] at hq <;> cases hq
  · exact .inr (by simpa [startPhase, startEvent, hown] using Move.start e n htx hrx hes hen hsi hsta)
  · exact .inl (alike_withInputs n htx hrx)

/-- R129, R131: a turn that asks for a STOP. -/
theorem stopHeld_move {s : State} (hes : s.eng.es = .stopWait) (hsto : s.ctl.con.sto = true)
    (hown : s.bus.own = .held) :
    Alike s (stopHeld s) ∨ Move s (stopHeld s) := by
  obtain ⟨e, n, hq, htx, hrx⟩ := askRelease_keeps s
  unfold stopHeld
  split <;> rename_i hs <;> rw [hs] at hq <;> cases hq
  · exact .inr (.stop e n htx hrx hes hsto hown)
  · exact .inl (alike_withInputs n htx hrx)

/-- R122 to R124: a turn with a transmit pending. -/
theorem transmit_move {s : State} (h : Inv s) (hen : s.ctl.con.en = true) (hsi : s.ctl.con.si = false)
    (hsta : s.ctl.con.sta = false) (hact : s.ctl.act = actTx) :
    Move s (if s.bus.firstTx then txAddress s else txData s) := by
  have hes := h.es_of_request (.inr (by simp [hact, actTx, actNone]))
  obtain ⟨hown, haddr, hdata⟩ := h.transmit hact
  obtain ⟨hans, e, n, hq, htx, hrx⟩ := askTx_next s
  split
  next hfirst =>
    unfold txAddress
    split <;> rename_i hs <;> rw [hs] at hq hans <;> cases hq
    · exact .lose e n (.inl ⟨hact, hans⟩) hes hen hsi hsta hown
    · exact .address e n _ htx hrx hans hes hen hsi hsta hact hown hfirst (haddr hfirst)
  next hfirst =>
    have hfirst : s.bus.firstTx = false := by simpa using hfirst
    obtain ⟨hmode, hdir⟩ := hdata hfirst
    unfold txData
    split <;> rename_i hs <;> rw [hs] at hq hans <;> cases hq
    · exact .lose e n (.inl ⟨hact, hans⟩) hes hen hsi hsta hown
    · exact .send e n _ htx hrx hans hes hen hsi hsta hact hown hfirst hmode hdir

/-- R124, R125: a turn with a receive pending. -/
theorem receive_move {s : State} (h : Inv s) (hen : s.ctl.con.en = true) (hsi : s.ctl.con.si = false)
    (hsta : s.ctl.con.sta = false) (hact : s.ctl.act = actRx) : Move s (rxData s) := by
  have hes := h.es_of_request (.inr (by simp [hact, actRx, actNone]))
  obtain ⟨hown, hfirst, hmode, hdir⟩ := h.receive hact
  obtain ⟨hans, e, n, hq, htx, hrx⟩ := askRx_next s
  unfold rxData
  split <;> rename_i hs <;> rw [hs] at hq hans <;> cases hq
  · exact .lose e n (.inr ⟨hact, hans⟩) hes hen hsi hsta hown
  · exact .receive e n _ htx hrx hans hes hen hsi hsta hact hown hfirst hmode hdir

/-- R118: a turn of the controller uses up inputs only, or is a move. -/
theorem controllerStep_move {s t : State} (h : Inv s) (ht : controllerStep s = .next t) : Alike s t ∨ Move s t := by
  rcases controllerStep_next ht with ⟨-, rfl⟩ | ⟨hr, rfl⟩ | ⟨hr, rfl⟩ | ⟨hr, -, rfl⟩ | ⟨hr, -, rfl⟩
  · exact .inl (.refl t)
  all_goals
    rcases busRequest_cases s with ⟨hn, -⟩ | ⟨hen, hsi, hc⟩
    · rw [hn] at hr; cases hr
    simp only [hr, reduceCtorEq, false_and, false_or, or_false, true_and] at hc
  · have hes := h.stoOnly hc
    cases ho : s.bus.own
    · exact .inr (.stopOnFree hes hc ho)
    · exact stopHeld_move hes hc ho
  · have hes := h.es_of_request (.inl hc.2)
    cases ho : s.bus.own
    · exact startFree_move hes hen hsi hc.2 ho
    · exact startHeld_move hes hen hsi hc.2 ho
  · exact .inr (transmit_move h hen hsi hc.2.1 hc.2.2)
  · exact .inr (receive_move h hen hsi hc.2.1 hc.2.2)

end Sys2Proof.Machine
end

section
/-! The invariant is kept by every step: by each move, and by each turn of the host. -/

namespace Sys2Proof.Machine

/-! ### The invariant and the parts of the state -/

/-- The invariant speaks of the block, of the caller's trailing stop while BUSY = 1, and of the form of memory. -/
theorem Inv.transport {s t : State} (h : Inv s) (hreq : s.status.busy = true → t.req.tstop = s.req.tstop)
    (hstatus : t.status = s.status) (heng : t.eng = s.eng) (hctl : t.ctl = s.ctl) (hbus : t.bus = s.bus)
    (htrace : t.trace = s.trace) (hmem : Memory.wf t.mem) : Inv t := by
  obtain ⟨_, status, eng, ctl, bus, trace, _, _, _, _, _, _, _⟩ := t
  dsimp only at hreq hstatus heng hctl hbus htrace hmem
  subst hstatus heng hctl hbus htrace
  exact { h with caller := fun hb hw hf => (h.caller hb hw hf).trans (hreq hb).symm, memory := hmem }

/-- Inputs and the host's log are no part of the invariant. -/
theorem Alike.inv {s t : State} (ha : Alike s t) (h : Inv s) : Inv t := by
  obtain ⟨_, _, _, _, rfl, -, -⟩ := ha
  exact h.transport (fun _ => rfl) rfl rfl rfl rfl rfl h.memory

theorem inv_popHost {s : State} (h : Inv s) : Inv (popHost s) :=
  h.transport (fun _ => rfl) rfl rfl rfl rfl rfl h.memory

/-- An idle block has nothing pending. -/
theorem Inv.es_of_not_busy {s : State} (h : Inv s) (hb : s.status.busy = false) : s.eng.es = .idle := by
  by_contra hes
  simp [h.busyIff.2 hes] at hb

theorem Inv.sto_of_not_stopWait {s : State} (h : Inv s) (hes : s.eng.es ≠ .stopWait) : s.ctl.con.sto = false := by
  by_contra hsto
  exact hes (h.stoOnly (by simpa using hsto))

theorem ownOfTrace_append (tr : List BusEvent) (e : BusEvent) : ownOfTrace (tr ++ [e]) = e.owner (ownOfTrace tr) := by
  simp [ownOfTrace]

/-! ### Moves keep the invariant -/

theorem inv_requestStart {s : State} (h : Inv s) (hes : s.eng.es = .start) : Inv (setEs .wait (setSta true s)) := by
  obtain ⟨hsi, hact, -⟩ := h.quiet (by simp [hes])
  have hsto := h.sto_of_not_stopWait (by simp [hes])
  have hbusy := h.busyIff.2 (by simp [hes])
  exact { h with
    busyIff := by simp [hbusy]
    quiet := by simp
    stoOnly := by simp [hsto]
    staOnly := by simp [hact, hsi]
    siOnly := by simp [hsi]
    waiting := by simp
    stopWait := by simp
    idle := by simp
    ended := by simp
    termHeld := by simp }


/-- The controller reports a phase (R116): it fits the bus, which follows its event. -/
theorem inv_report {s : State} (e : BusEnv) (n : Nat) (d : Byte) {code : Byte} {b : BusState} {ev : BusEvent} (h : Inv s)
    (hes : s.eng.es = .wait) (hen : s.ctl.con.en = true) (hcode : code ∈ phaseCodes)
    (hsta : s.ctl.con.sta = true → b = startedBus) (hown : b.own = ev.owner s.bus.own)
    (hfree : b.own = .free → b = freeBus)
    (hfits : PhaseFits code (enterPhase code (setBus b (emit ev (setDat d (setAct actNone (withInputs e n s))))))) :
    Inv (enterPhase code (setBus b (emit ev (setDat d (setAct actNone (withInputs e n s)))))) :=
  { h with
    phase := by simpa [PhaseInv] using hcode
    quiet := by simp [hes]
    staOnly := by simpa using hsta
    siOnly := fun _ => ⟨by simp, by simpa using hen, hfits⟩
    waiting := by simp
    transmit := by simp [actNone, actTx]
    receive := by simp [actNone, actRx]
    noThree := by simp [actNone]
    free := by simpa using hfree
    stopWait := by simp [hes]
    idle := by simp [hes]
    termHeld := by simp [hes]
    owner := by simpa [ownOfTrace_append, ← h.owner] using hown }

/-! The handlers (R94) leave all of these alone until their epilogue. -/

/-- What a handler leaves alone (R29, R94): all but the progress registers, W_TSTOP and W_FAIL, the phase, the pending
request, DAT, AA and buffer memory. -/
structure HandlerFrame (s u : State) : Prop where
  req : u.req = s.req
  status : u.status = s.status
  bus : u.bus = s.bus
  trace : u.trace = s.trace
  wSla : u.eng.wSla = s.eng.wSla
  wWarm : u.eng.wWarm = s.eng.wWarm
  sto : u.ctl.con.sto = s.ctl.con.sto
  en : u.ctl.con.en = s.ctl.con.en
  sclh : u.ctl.sclh = s.ctl.sclh
  scll : u.ctl.scll = s.ctl.scll

/-- The action that a handler selects is one that the bus allows (R127), for the transfer's direction (R112). -/
def ActFits (u : State) : Prop :=
  u.bus.own = .held ∧
    (u.ctl.act = actTx ∧ u.bus.firstTx = true ∧ u.ctl.dat = u.eng.wSla ∨
     u.ctl.act = actTx ∧ u.bus.firstTx = false ∧ u.bus.mode = .mt ∧ slaDir u.eng.wSla = false ∨
     u.ctl.act = actRx ∧ u.bus.firstTx = false ∧ u.bus.mode = .mr ∧ slaDir u.eng.wSla = true)

theorem ActFits.act {u : State} (h : ActFits u) : u.ctl.act = actTx ∨ u.ctl.act = actRx := by
  obtain ⟨-, h | h | h⟩ := h
  · exact .inl h.1
  · exact .inl h.1
  · exact .inr h.1

theorem ActFits.transmit {u : State} (h : ActFits u) (hact : u.ctl.act = actTx) :
    u.bus.own = .held ∧ (u.bus.firstTx = true → u.ctl.dat = u.eng.wSla) ∧
      (u.bus.firstTx = false → u.bus.mode = .mt ∧ slaDir u.eng.wSla = false) := by
  obtain ⟨hown, h | h | h⟩ := h
  · exact ⟨hown, fun _ => h.2.2, fun hf => by simp [h.2.1] at hf⟩
  · exact ⟨hown, fun ht => by simp [h.2.1] at ht, fun _ => h.2.2⟩
  · rw [h.1] at hact; cases hact

theorem ActFits.receive {u : State} (h : ActFits u) (hact : u.ctl.act = actRx) :
    u.bus.own = .held ∧ u.bus.firstTx = false ∧ u.bus.mode = .mr ∧ slaDir u.eng.wSla = true := by
  obtain ⟨hown, h | h | h⟩ := h
  · rw [h.1] at hact; cases hact
  · rw [h.1] at hact; cases hact
  · exact ⟨hown, h.2⟩

/-- A handler goes on (R94). -/
theorem inv_proceed {s u : State} (h : Inv s) (hu : HandlerFrame s u) (hes : s.eng.es = .wait)
    (hsta : u.ctl.con.sta = false) (hts : u.eng.wTstop = s.eng.wTstop) (hfail : u.eng.wFail = s.eng.wFail)
    (hact : ActFits u) (hprog : ProgressInv u) (hwarm : s.eng.wWarm = true → u.eng.wLen = 0) (hmem : Memory.wf u.mem) :
    Inv (epilogue .proceed u) := by
  have hnone : u.ctl.act ≠ actNone := by rcases hact.act with h | h <;> rw [h] <;> decide
  have hsto := h.sto_of_not_stopWait (by simp [hes])
  exact {
    busyIff := by simpa [hu.status, hes, HandlerOutcome.next] using h.busyIff
    phase := by simp [PhaseInv]
    quiet := by simp [HandlerOutcome.next]
    stoOnly := by simp [hu.sto, hsto]
    staOnly := by simp [hsta]
    siOnly := by simp
    waiting := by simp [hnone]
    transmit := hact.transmit
    receive := hact.receive
    noThree := by rcases hact.act with h | h <;> simp [h] <;> decide
    free := by simpa [hu.bus] using h.free
    stopWait := by simp [HandlerOutcome.next]
    idle := by simp [HandlerOutcome.next]
    failForces := by simpa [hts, hfail] using h.failForces
    caller := by simpa [hu.status, hu.wWarm, hu.req, hts, hfail] using h.caller
    ended := by simp [HandlerOutcome.next]
    termHeld := by simp [HandlerOutcome.next]
    progress := hprog
    warm := fun hw => by
      rw [epilogue_eng] at hw
      obtain ⟨h1, h2, -, h4⟩ := h.warm (hu.wWarm ▸ hw)
      exact ⟨hts.trans h1, hu.wSla.trans h2, hwarm (hu.wWarm ▸ hw), hu.en.trans h4⟩
    divisors := by simpa [hu.en, hu.sclh, hu.scll] using h.divisors
    configured := by simpa [hu.en, hu.status] using h.configured
    owner := by simpa [hu.bus, hu.trace] using h.owner
    memory := hmem }

/-- A handler ends the loop (R94): every byte is moved and the bus still held, or the failure forces the trailing stop. -/
theorem inv_complete {s u : State} {o : HandlerOutcome} (h : Inv s) (hu : HandlerFrame s u) (ho : o.next = .term)
    (hes : s.eng.es = .wait) (hsta : u.ctl.con.sta = false) (hact : u.ctl.act = actNone)
    (hend : u.eng.wFail = true ∧ u.eng.wTstop = true ∧ u.eng.wLen = s.eng.wLen ∨
      u.eng.wFail = s.eng.wFail ∧ u.eng.wTstop = s.eng.wTstop ∧ u.eng.wLen = 0 ∧ u.bus.own = .held)
    (hprog : ProgressInv u) (hmem : Memory.wf u.mem) :
    Inv (epilogue o u) := by
  have hsto := h.sto_of_not_stopWait (by simp [hes])
  exact {
    busyIff := by simpa [hu.status, hes, ho] using h.busyIff
    phase := by simp [PhaseInv]
    quiet := by simp [hact, hsta]
    stoOnly := by simp [hu.sto, hsto]
    staOnly := by simp [hsta]
    siOnly := by simp
    waiting := by simp [ho]
    transmit := by simp [hact, actNone, actTx]
    receive := by simp [hact, actNone, actRx]
    noThree := by simp [hact, actNone]
    free := by simpa [hu.bus] using h.free
    stopWait := by simp [ho]
    idle := by simp [ho]
    failForces := fun hf => by
      rcases hend with ⟨-, h2, -⟩ | ⟨h1, h2, -⟩
      · exact h2
      · exact h2.trans (h.failForces (h1 ▸ hf))
    caller := fun hb hw hf => by
      rcases hend with ⟨h1, -⟩ | ⟨h1, h2, -⟩
      · exact absurd (h1.symm.trans hf) (by decide)
      · have := h.caller (hu.status ▸ hb) (hu.wWarm ▸ hw) (h1 ▸ hf)
        exact h2.trans (this.trans (by rw [epilogue_req, hu.req]))
    ended := fun _ hf => by
      rcases hend with ⟨h1, -⟩ | ⟨-, -, h3, -⟩
      · exact absurd (h1.symm.trans hf) (by decide)
      · exact h3
    termHeld := fun _ hf => by
      rcases hend with ⟨h1, -⟩ | ⟨-, -, -, h4⟩
      · exact absurd (h1.symm.trans hf) (by decide)
      · exact h4
    progress := hprog
    warm := fun hw => by
      rw [epilogue_eng] at hw
      obtain ⟨h1, h2, h3, h4⟩ := h.warm (hu.wWarm ▸ hw)
      refine ⟨?_, hu.wSla.trans h2, ?_, hu.en.trans h4⟩
      · rcases hend with ⟨-, h, -⟩ | ⟨-, h, -⟩
        · exact h
        · exact h.trans h1
      · rcases hend with ⟨-, -, h⟩ | ⟨-, -, h, -⟩
        · exact h.trans h3
        · exact h
    divisors := by simpa [hu.en, hu.sclh, hu.scll] using h.divisors
    configured := by simpa [hu.en, hu.status] using h.configured
    owner := by simpa [hu.bus, hu.trace] using h.owner
    memory := hmem }

theorem lengthAfterByte_toNat {s : State} (h : s.eng.wLen ≠ 0) :
    (lengthAfterByte s).toNat + 1 = s.eng.wLen.toNat := by
  rw [lengthAfterByte, if_neg h]
  bv_omega

/-- R115: counting a byte keeps the progress invariant. -/
theorem progressInv_countByte {s : State} (h : ProgressInv s) (h0 : s.eng.wLen ≠ 0) : ProgressInv (countByte s) := by
  have hl := lengthAfterByte_toNat h0
  have he := s.eng.wEnd.isLt
  obtain ⟨h1, h2, h3⟩ := h
  have hp : (s.eng.wPtr + 1).toNat = s.eng.wPtr.toNat + 1 := by
    rw [BitVec.toNat_add]
    exact Nat.mod_eq_of_lt (by simp; omega)
  simp only [ProgressInv, countByte_eng, hp]
  omega

theorem inv_sendNext {s : State} (b : Byte) (h : Inv s) (hes : s.eng.es = .wait) (hsta : s.ctl.con.sta = false)
    (hown : s.bus.own = .held) (hfirst : s.bus.firstTx = false) (hmode : s.bus.mode = .mt)
    (hdir : slaDir s.eng.wSla = false) (hlen : s.eng.wLen ≠ 0) :
    Inv (epilogue .proceed (setAct actTx (countByte (setDat b s)))) := by
  refine inv_proceed h (by constructor <;> rfl) hes hsta rfl rfl ?_ ?_ (fun hw => ?_) h.memory
  · exact ⟨hown, .inr (.inl ⟨rfl, hfirst, hmode, hdir⟩)⟩
  · exact progressInv_countByte (s := setDat b s) h.progress hlen
  · exact absurd (h.wLen_of_warm hw) hlen

/-- R105, R106: after the store the read goes on, or is complete. -/
theorem inv_afterStore {s u : State} (h : Inv s) (hu : u = { s with mem := u.mem }) (hes : s.eng.es = .wait)
    (hsta : s.ctl.con.sta = false) (hown : s.bus.own = .held) (hfirst : s.bus.firstTx = false)
    (hmode : s.bus.mode = .mr) (hdir : slaDir s.eng.wSla = true) (hlen : s.eng.wLen ≠ 0) (hmem : Memory.wf u.mem) :
    Inv (afterStore u) := by
  have hprog : ProgressInv (countByte u) := by
    rw [hu]; exact progressInv_countByte (s := { s with mem := u.mem }) h.progress hlen
  have hwarm : s.eng.wWarm ≠ true := fun hw => absurd (h.wLen_of_warm hw) hlen
  rcases afterStore_cases u with ⟨h0, ht⟩ | ⟨-, ht⟩ | ⟨-, -, ht⟩ <;> rw [ht] <;> rw [hu] at *
  · exact inv_complete h (by constructor <;> rfl) rfl hes hsta rfl (.inr ⟨rfl, rfl, h0, hown⟩) hprog hmem
  · exact inv_proceed h (by constructor <;> rfl) hes hsta rfl rfl ⟨hown, .inr (.inr ⟨rfl, hfirst, hmode, hdir⟩)⟩ hprog
      (fun hw => absurd hw hwarm) hmem
  · exact inv_proceed h (by constructor <;> rfl) hes hsta rfl rfl ⟨hown, .inr (.inr ⟨rfl, hfirst, hmode, hdir⟩)⟩ hprog
      (fun hw => absurd hw hwarm) hmem

theorem inv_requestStop {s : State} (h : Inv s) (hes : s.eng.es = .term) (hts : s.eng.wTstop = true) :
    Inv (setEs .stopWait (setSto true s)) := by
  obtain ⟨hsi, hact, hsta⟩ := h.quiet (by simp [hes])
  have hbusy := h.busyIff.2 (by simp [hes])
  exact { h with
    busyIff := by simp [hbusy]
    quiet := by simp [hsi, hact, hsta]
    stoOnly := by simp
    siOnly := by simp [hsi]
    waiting := by simp
    stopWait := by simp [hts]
    idle := by simp
    ended := fun _ => h.ended (.inl hes)
    termHeld := by simp }

/-- R110: the command ends; a held bus is left only where no trailing stop was asked for. -/
theorem inv_finish {s : State} (h : Inv s)
    (hend : s.eng.es = .term ∧ s.eng.wTstop = false ∨ s.eng.es = .stopWait ∧ s.ctl.con.sto = false) :
    Inv (finish s) := by
  have hes : s.eng.es ≠ .wait := by rcases hend with h | h <;> simp [h.1]
  obtain ⟨hsi, hact, hsta⟩ := h.quiet hes
  have hsto : s.ctl.con.sto = false := by
    rcases hend with ⟨h1, -⟩ | ⟨-, h2⟩
    · exact h.sto_of_not_stopWait (by simp [h1])
    · exact h2
  have hheld : s.bus.own = .held → s.eng.wTstop = false := by
    rcases hend with ⟨-, h2⟩ | ⟨h1, -⟩
    · exact fun _ => h2
    · simp [(h.stopWait h1).2 hsto]
  rcases finish_cases s with ⟨hw, ht⟩ | ⟨hw, ht⟩ <;> rw [ht]
  · obtain ⟨-, -, -, hen⟩ := h.warm hw
    exact { h with
      busyIff := by simp
      quiet := by simp [hsi, hact, hsta]
      stoOnly := by simp [hsto]
      siOnly := by simp [hsi]
      waiting := by simp
      stopWait := by simp
      idle := by simpa using hheld
      caller := by simp
      ended := by simp
      termHeld := by simp
      warm := by simp
      configured := fun _ => hen }
  · exact { h with
      busyIff := by simp
      quiet := by simp [hsi, hact, hsta]
      stoOnly := by simp [hsto]
      siOnly := by simp [hsi]
      waiting := by simp
      stopWait := by simp
      idle := by simpa [hw] using hheld
      caller := by simp
      ended := by simp
      termHeld := by simp }

theorem inv_stop {s : State} (e : BusEnv) (n : Nat) (h : Inv s) (hes : s.eng.es = .stopWait) :
    Inv (setSto false (setBus freeBus (emit .stop (withInputs e n s)))) := by
  obtain ⟨hsi, hact, hsta⟩ := h.quiet (by simp [hes])
  exact { h with
    stoOnly := by simp
    staOnly := by simp [hsta]
    siOnly := by simp [hsi]
    transmit := by simp [hact, actNone, actTx]
    receive := by simp [hact, actNone, actRx]
    free := by simp
    stopWait := fun _ => ⟨(h.stopWait hes).1, by simp [freeBus]⟩
    idle := by simp [hes]
    termHeld := by simp [hes]
    owner := by rw [setSto_trace, setBus_trace, emit_trace, ownOfTrace_append]; rfl }

theorem inv_stopOnFree {s : State} (h : Inv s) (hes : s.eng.es = .stopWait) (hown : s.bus.own = .free) :
    Inv (setSto false s) := by
  obtain ⟨hsi, -, -⟩ := h.quiet (by simp [hes])
  exact { h with
    stoOnly := by simp
    siOnly := by simp [hsi]
    stopWait := by simp [(h.stopWait hes).1, hown] }

theorem Move.inv {s t : State} (h : Inv s) (hm : Move s t) : Inv t := by
  cases hm with
  | requestStart hes => exact inv_requestStart h hes
  | start e n htx hrx hes hen hsi hsta =>
    have hact : setAct actNone s = s := by rw [← (h.staOnly hsta).1]; rfl
    have ht := inv_report (code := startPhase s.bus.own) (b := startedBus) (ev := startEvent s.bus.own) e n s.ctl.dat
      h hes hen (by cases s.bus.own <;> decide) (fun _ => rfl) (by cases s.bus.own <;> rfl) (by simp [startedBus])
      (by cases s.bus.own <;> simp [startPhase, PhaseFits, hsta])
    rwa [show setAct actNone (withInputs e n s) = withInputs e n s from congrArg (withInputs e n) hact] at ht
  | placeAddress hes hsi hsta hbus =>
    exact inv_proceed h (by constructor <;> rfl) hes rfl rfl rfl
      ⟨by simp [hbus, startedBus], .inl ⟨rfl, by simp [hbus, startedBus], rfl⟩⟩ h.progress
      h.wLen_of_warm h.memory
  | address e n a htx hrx hans hes hen hsi hsta hact hown hfirst hdat =>
    refine inv_report (ev := .addr _ a) e n s.ctl.dat h hes hen ?_ (by simp [hsta]) rfl (by simp [hown]) ?_
    · cases a <;> cases hd : slaDir s.ctl.dat <;> simp [addressPhase, hd] <;> decide
    · cases a <;> cases hd : slaDir s.ctl.dat <;> simp [PhaseFits, addressPhase, addressMode, hd, hown, ← hdat]
  | send e n a htx hrx hans hes hen hsi hsta hact hown hfirst hmode hdir =>
    refine inv_report (b := s.bus) (ev := .txd _ a) e n s.ctl.dat h hes hen ?_ (by simp [hsta]) rfl h.free ?_
    · cases a <;> decide
    · cases a <;> simp [PhaseFits, hown, hfirst, hmode, hdir]
  | receive e n b htx hrx hans hes hen hsi hsta hact hown hfirst hmode hdir =>
    refine inv_report (ev := .rxd b _) e n b h hes hen ?_ (by simp [hsta]) rfl (by simp [hown]) ?_
    · cases s.ctl.con.aa <;> decide
    · cases s.ctl.con.aa <;> simp [PhaseFits, hown, hfirst, hmode, hdir]
  | lose e n hans hes hen hsi hsta hown =>
    exact inv_report (code := 0x38) (b := freeBus) (ev := .arbLost) e n s.ctl.dat h hes hen (by decide)
      (by simp [hsta]) rfl (fun _ => rfl) (by simp [PhaseFits])
  | sendNext hes hsi hstat hsta hown hfirst hmode hdir hlen =>
    exact inv_sendNext _ h hes hsta hown hfirst hmode hdir hlen
  | sendDone hes hsi hstat hsta hown hdir hlen =>
    exact inv_complete h (by constructor <;> rfl) rfl hes hsta rfl (.inr ⟨rfl, rfl, hlen, hown⟩) h.progress h.memory
  | fail hes hsi hstat hsta =>
    exact inv_complete h (by constructor <;> rfl) rfl hes hsta rfl (.inl ⟨rfl, rfl, rfl⟩) h.progress h.memory
  | receiveFirst hes hsi hstat hsta hown hfirst hmode hdir =>
    exact inv_proceed h (by constructor <;> rfl) hes hsta rfl rfl ⟨hown, .inr (.inr ⟨rfl, hfirst, hmode, hdir⟩)⟩
      h.progress h.wLen_of_warm h.memory
  | store hes hsi hstat hsta hown hfirst hmode hdir hlen =>
    exact inv_afterStore h rfl hes hsta hown hfirst hmode hdir hlen (Memory.wf_write h.memory _ _)
  | requestStop hes hts => exact inv_requestStop h hes hts
  | finish hend => exact inv_finish h hend
  | stop e n htx hrx hes hsto hown => exact inv_stop e n h hes
  | stopOnFree hes hsto hown => exact inv_stopOnFree h hes hown

/-! ### The host's turns keep the invariant -/

/-- R77, R82: a command starts with nothing pending. -/
theorem inv_issueTransfer {s : State} {o : TransferOperands} {w : Bool} (h : Inv s) (hb : s.status.busy = false)
    (hlim : o.limit < 2 ^ 32) (hcaller : w = false → o.trailingStop = s.req.tstop)
    (hwarm : w = true → o.trailingStop = true ∧ o.address = warmupSla ∧ o.length = 0 ∧ s.ctl.con.en = true) :
    Inv (issueTransfer o w s) := by
  have hes := h.es_of_not_busy hb
  obtain ⟨hsi, hact, hsta⟩ := h.quiet (by simp [hes])
  have hsto := h.sto_of_not_stopWait (by simp [hes])
  have hend : (BitVec.ofNat 32 o.limit).toNat = o.buffer.toNat + o.length.toNat := by
    rw [BitVec.toNat_ofNat, Nat.mod_eq_of_lt hlim]; rfl
  exact { h with
    busyIff := by simp
    quiet := by simp [hsi, hact, hsta]
    stoOnly := by simp [hsto]
    siOnly := by simp [hsi]
    waiting := by simp
    transmit := by simp [hact, actNone, actTx]
    receive := by simp [hact, actNone, actRx]
    stopWait := by simp
    idle := by simp
    failForces := by simp
    caller := by simpa using hcaller
    ended := by simp
    termHeld := by simp
    progress := by simp only [ProgressInv, issueTransfer_eng, hend]; omega
    warm := by simpa using hwarm }

/-- R77: CONFIGURE's writes to the controller of an idle block on a free bus. -/
theorem inv_configureController {s : State} {p b d : Nat} (h : Inv s) (hb : s.status.busy = false)
    (hown : s.bus.own = .free) (hd : divisor p b = .ok d) : Inv (configureController d s) := by
  have hes := h.es_of_not_busy hb
  obtain ⟨-, -, hpos, hlt⟩ := divisor_eq_ok.1 hd
  have hne : BitVec.ofNat 16 d ≠ 0 := by
    intro h0
    have := congrArg BitVec.toNat h0
    rw [BitVec.toNat_ofNat] at this
    simp only [Config.divW] at hlt
    simp at this
    omega
  exact { h with
    phase := by simp [PhaseInv]
    quiet := by simp
    stoOnly := by simp
    staOnly := by simp
    siOnly := by simp
    waiting := by simp [hes]
    transmit := by simp [actNone, actTx]
    receive := by simp [actNone, actRx]
    noThree := by simp [actNone]
    free := by simp [hown, freeBus]
    stopWait := by simp [hes]
    warm := by simp [(h.idle hes).1]
    divisors := by simpa using hne
    configured := by simp }

/-- R76: a command written by the host keeps the invariant. -/
theorem inv_exec_command {s t : State} {w : Word} (h : Inv s) (ht : exec (decodeCmd w) s = .next t) : Inv t := by
  rcases decodeCmd_cases w with hi | hi | hi | hi <;> rw [hi] at ht
  · obtain ⟨-, rfl⟩ := execNop_next (x := cmdIgnored w) ht
    exact h
  · obtain ⟨hb, hown, d, hd, rfl⟩ := execConfigure_next (x := cmdIgnored w) ht
    exact inv_issueTransfer (inv_configureController h hb hown hd) hb (by decide) (by simp)
      (fun _ => ⟨rfl, rfl, rfl, rfl⟩)
  · obtain ⟨hb, hlim, rfl⟩ := execTransfer_next (x := cmdIgnored w) ht
    exact inv_issueTransfer h hb hlim (fun _ => rfl) (by simp)
  · exact absurd ht execCmdReserved_ne_next

theorem inv_hostStep {s t : State} (h : Inv s) (ht : hostStep s = .next t) : Inv t := by
  rcases hostStep_next ht with rfl | ⟨r, rfl⟩ | ⟨r, rfl⟩ | ⟨hb, r, v, rfl⟩ | ⟨w, hw⟩ | ⟨a, v, -, -, rfl⟩
  · exact h
  · exact (alike_logReply _ r).inv (inv_popHost h)
  · exact (alike_logReply s r).inv h
  · exact h.transport (by simp [hb]) rfl rfl rfl rfl rfl h.memory
  · exact inv_exec_command (inv_popHost h) hw
  · exact h.transport (fun _ => rfl) rfl rfl rfl rfl rfl (Memory.wf_write h.memory a v)

/-- Settles O40: each agent's turn keeps the invariant, the engine's and the controller's since each is a move. -/
theorem stepKeepsTheInvariant : Obligations.StepKeepsTheInvariant := by
  intro s t h hst
  obtain ⟨-, hturn⟩ := step_next hst
  have hu := (alike_takeAgent s).inv h
  cases ha : (takeAgent s).1 <;> rw [ha] at hturn
  · exact inv_hostStep hu hturn
  · rcases engineStep_move hu hturn with ⟨-, rfl⟩ | hm
    · exact hu
    · exact hm.inv hu
  · rcases controllerStep_move hu hturn with hl | hm
    · exact hl.inv hu
    · exact hm.inv hu

end Sys2Proof.Machine
end

section
/-! Engine and controller take turns (R10); what the step runs (R76, R93); a byte stored with W_LEN = 0. -/

namespace Sys2Proof.Machine

/-! ### Engine and controller take turns -/

/-- R116, R128, R132: with nothing to do, the controller's turn changes nothing. -/
theorem controllerStep_of_nothing {s : State} (h : busRequest s = .nothing) :
    controllerStep s = .next s ∧ controllerEnabled s = false := by
  simp [controllerStep, controllerEnabled, h]

theorem busRequest_of_si {s : State} (h : s.ctl.con.si = true) : busRequest s = .nothing := by
  simp [busRequest, h]

theorem busRequest_of_none {s : State} (hsto : s.ctl.con.sto = false) (hsta : s.ctl.con.sta = false)
    (hact : s.ctl.act = actNone) : busRequest s = .nothing := by
  simp [busRequest, hsto, hsta, hact, actNone, actTx, actRx]

/-- The controller has nothing to do where the engine has a step: a phase is reported, or nothing is pending. -/
theorem Inv.busRequest_of_engineEnabled {s : State} (h : Inv s) (he : engineEnabled s = true) :
    busRequest s = .nothing := by
  by_cases hes : s.eng.es = .wait
  · exact busRequest_of_si (by simpa [engineEnabled, hes] using he)
  · obtain ⟨-, hact, hsta⟩ := h.quiet hes
    refine busRequest_of_none ?_ hsta hact
    by_contra hsto
    have hsto : s.ctl.con.sto = true := by simpa using hsto
    simp [engineEnabled, h.stoOnly hsto, hsto] at he

/-- An enabled controller has something to do where a command is in flight and the engine has no step: it waits for the
phase of a start or of a byte, or for a STOP. -/
theorem Inv.controllerEnabled_of_waiting {s : State} (h : Inv s) (hen : s.ctl.con.en = true)
    (hes : s.eng.es ≠ .idle) (he : engineEnabled s = false) : controllerEnabled s = true := by
  rcases busRequest_cases s with ⟨hn, hc⟩ | ⟨-, -, hc⟩
  · exfalso
    cases hs : s.eng.es <;> simp only [engineEnabled, hs] at he
    · exact hes hs
    · cases he
    · obtain hc | hc | ⟨-, hsta, hact⟩ := hc
      · simp [hen] at hc
      · simp [he] at hc
      · exact (h.waiting hs he).elim (by simp [hsta]) (by simp [hact])
    · cases he
    · obtain ⟨hsi, -, -⟩ := h.quiet (by simp [hs])
      simp [hen, hsi] at hc
      simp [hc.1] at he
  · rcases hc with ⟨hr, -⟩ | ⟨hr, -⟩ | ⟨hr, -⟩ | ⟨hr, -⟩ | ⟨hr, -⟩ <;> simp [controllerEnabled, hr]

/-- Settles O41: the invariant leaves the controller nothing to do where the engine has a step, and something where a
command in flight has none. -/
theorem engineAndControllerTakeTurns : Obligations.EngineAndControllerTakeTurns := by
  refine ⟨fun s h => ?_, fun s h hb hen => ?_, fun s hc => ?_⟩
  · rintro ⟨he, hc⟩
    rw [(controllerStep_of_nothing (h.busRequest_of_engineEnabled he)).2] at hc
    cases hc
  · cases he : engineEnabled s
    · exact .inr (h.controllerEnabled_of_waiting hen (h.busyIff.1 hb) he)
    · exact .inl rfl
  · apply controllerStep_of_nothing
    rcases hc with hen | hsi | ⟨hsto, hsta, hact⟩
    · simp [busRequest, hen]
    · exact busRequest_of_si hsi
    · exact busRequest_of_none hsto hsta hact

/-! ### The step runs the decoded instruction -/

/-- R147: a fault-free machine's step is the turn of the agent that moves next. -/
theorem step_of_no_fault {s : State} (h : s.faults = []) : step s = agentStep (takeAgent s).1 (takeAgent s).2 := by
  simp [step, h]

/-- R76: the host's turn that writes CMD is the command, with that access taken. -/
theorem hostStep_command {s : State} {w : Word} {rest : List HostAccess}
    (h : s.host.program = .write .word 0x00 w :: rest) : hostStep s = exec (decodeCmd w) (popHost s) := by
  simp [hostStep, h, hostAccess, hostWrite, accessedReg, Reg.ofOffset, Reg.all, Reg.offset, Reg.writable]

/-- R93: the engine's turn in WAIT with SI = 1 is the handler that STAT selects. -/
theorem engineStep_phase {s : State} {i : Instr} (hes : s.eng.es = .wait) (hsi : s.ctl.con.si = true)
    (hd : decodePhase s.ctl.stat = .instr i) : engineStep s = exec i s := by
  simp [engineStep, engineEnabled, hes, hsi, runPhase, statView, decode, hd]

theorem takeAgent_cons {s : State} {a : Agent} {sch : List Agent} (h : s.schedule = a :: sch) :
    takeAgent s = (a, { s with schedule := sch }) := by
  simp [takeAgent, h]

theorem takeAgent_nil {s : State} (h : s.schedule = []) :
    takeAgent s = (Config.freeAgent s.draws, { s with draws := s.draws + 1 }) := by
  simp [takeAgent, h]

/-- Settles O3: the turn of the host at a CMD write, and of the engine at a phase, in the state `takeAgent` leaves. -/
theorem stepRunsTheDecodedInstruction : Obligations.StepRunsTheDecodedInstruction := by
  refine ⟨fun s w i rest hs hp hd => ?_, fun s i hs hes hsi hd => ?_⟩
  · have hi : decodeCmd w = i := by simpa [decode] using hd
    have hturn (l : List Agent) (n : Nat) : hostStep { s with schedule := l, draws := n } =
        exec i { s with schedule := l, draws := n, host := { s.host with program := rest } } := by
      rw [hostStep_command (s := { s with schedule := l, draws := n }) hp, hi, popHost]
      simp only [hp, List.tail_cons]
    refine ⟨fun sch hsch => ?_, fun hsch => ?_⟩
    · rw [step_of_no_fault hs, takeAgent_cons hsch]
      exact hturn sch s.draws
    · rw [step_of_no_fault hs, takeAgent_nil hsch]
      cases Config.freeAgent s.draws
      · exact hturn s.schedule (s.draws + 1)
      · rfl
      · rfl
  · refine ⟨fun sch hsch => ?_, fun hsch => ?_⟩
    · rw [step_of_no_fault hs, takeAgent_cons hsch]
      exact engineStep_phase hes hsi hd
    · rw [step_of_no_fault hs, takeAgent_nil hsch]
      cases Config.freeAgent s.draws
      · rfl
      · exact engineStep_phase hes hsi hd
      · rfl

/-! ### A byte stored with W_LEN = 0 -/

/-- R105, R106: a store in the window and in MEM. -/
theorem storeReceived_of_inWindow {s : State} (hw : inWindow s s.eng.wPtr = true) (hm : inMem s s.eng.wPtr = true) :
    storeReceived s = .next (afterStore { s with mem := Memory.write s.mem s.eng.wPtr.toNat s.ctl.dat }) := by
  rw [storeReceived, memWrite_eq_ok.2 ⟨hw, hm, rfl⟩]

theorem countByte_of_no_length {s : State} (h : s.eng.wLen = 0) :
    countByte s = { s with
      eng := { s.eng with wPtr := s.eng.wPtr + 1, wLen := Config.freeLength s.draws }
      draws := s.draws + 1 } := by
  simp [countByte, lengthAfterByte, h]

/-- R105, R106: what follows a store is computed from the free value in W_LEN. -/
theorem afterStore_of_no_length {s : State} {n : Word} (h : s.eng.wLen = 0) (hn : n = Config.freeLength s.draws) :
    afterStore s = { s with
      eng := { s.eng with wPtr := s.eng.wPtr + 1, wLen := n, es := if n = 0 then .term else .wait }
      ctl :=
        { s.ctl with act := if n = 0 then 0 else 2, stat := 0xF8,
                     con := { s.ctl.con with aa := if n = 1 then false else s.ctl.con.aa, si := false } }
      draws := s.draws + 1 } := by
  have hl : lengthAfterByte s = n := by rw [lengthAfterByte, if_pos h, hn]
  rcases afterStore_cases s with ⟨h0, ht⟩ | ⟨h1, ht⟩ | ⟨h0, h1, ht⟩ <;>
    rw [ht, countByte_of_no_length h, ← hn]
  · rw [hl] at h0
    subst h0
    rfl
  · rw [hl] at h1
    subst h1
    rfl
  · rw [hl] at h0 h1
    rw [if_neg h0, if_neg h0, if_neg h1]
    rfl

/-- Settles O27: the store succeeds, and what follows it is computed from the free value. -/
theorem dataReadWithNoLengthIsFree : Obligations.DataReadWithNoLengthIsFree := by
  intro i s n hi hlen hbeg hend hmem hn
  have hrun : exec i s = storeReceived s := by rcases hi with rfl | rfl <;> rfl
  rw [hrun, storeReceived_of_inWindow (inWindow_iff.2 ⟨hbeg, hend⟩) hmem,
    afterStore_of_no_length (s := { s with mem := Memory.write s.mem s.eng.wPtr.toNat s.ctl.dat }) hlen hn]

end Sys2Proof.Machine
end

section
/-! SUPPORT. How a turn stops in a state of the invariant: the engine at an overrun (R49, R50), the controller never. -/

namespace Sys2Proof.Machine

/-! ### How a turn can stop -/

/-- R98, R100: a transmit step stops only at a byte that is not there. -/
theorem transmitNext_total (s : State) :
    (∃ t, transmitNext s = .next t) ∨
    s.eng.wLen ≠ 0 ∧ ¬(inWindow s s.eng.wPtr = true ∧ inMem s s.eng.wPtr = true) ∧
      transmitNext s = .fault (.bufferOverrun s.eng.wPtr) := by
  unfold transmitNext
  split
  · exact .inl ⟨_, rfl⟩
  next h0 =>
    cases hr : memRead s s.eng.wPtr with
    | ok b => exact .inl ⟨_, rfl⟩
    | error f =>
      obtain ⟨hn, rfl⟩ := memRead_eq_error.1 hr
      exact .inr ⟨h0, hn, rfl⟩

/-- R105, R106: a store step stops only at a byte that is not there. -/
theorem storeReceived_total (s : State) :
    (∃ t, storeReceived s = .next t) ∨
    ¬(inWindow s s.eng.wPtr = true ∧ inMem s s.eng.wPtr = true) ∧
      storeReceived s = .fault (.bufferOverrun s.eng.wPtr) := by
  unfold storeReceived
  cases hr : memWrite s s.eng.wPtr s.ctl.dat with
  | ok b => exact .inl ⟨_, rfl⟩
  | error f =>
    obtain ⟨hn, rfl⟩ := memWrite_eq_error.1 hr
    exact .inr ⟨hn, rfl⟩

/-- The engine is about to move a byte that W_PTR does not have: out of the window, or not in MEM (R49, R50). -/
structure Overruns (s : State) : Prop where
  si : s.ctl.con.si = true
  absent : ¬(inWindow s s.eng.wPtr = true ∧ inMem s s.eng.wPtr = true)
  moves : (s.ctl.stat = 0x18 ∨ s.ctl.stat = 0x28) ∧ s.eng.wLen ≠ 0 ∨ s.ctl.stat = 0x50 ∨ s.ctl.stat = 0x58

/-- R93, R107: in a state of the invariant a handler stops only at an overrun. -/
theorem runPhase_total {s : State} (h : Inv s) (hes : s.eng.es = .wait) (hsi : s.ctl.con.si = true) :
    (∃ t, engineStep s = .next t) ∨ Overruns s ∧ engineStep s = .fault (.bufferOverrun s.eng.wPtr) := by
  have hphase := h.phase
  rw [PhaseInv, if_pos hsi] at hphase
  obtain ⟨i, hd⟩ := exists_of_mem_phaseCodes hphase
  rw [engineStep_phase hes hsi hd]
  rcases exec_phase_cases hd s with ⟨-, he⟩ | ⟨hc, he⟩ | ⟨-, he⟩ | ⟨-, he⟩ | ⟨hc, he⟩ <;> rw [he]
  · exact .inl ⟨_, rfl⟩
  · exact (transmitNext_total s).imp_right fun ⟨h0, hn, hf⟩ => ⟨⟨hsi, hn, .inl ⟨hc, h0⟩⟩, hf⟩
  · exact .inl ⟨_, rfl⟩
  · exact .inl ⟨_, rfl⟩
  · exact (storeReceived_total s).imp_right fun ⟨hn, hf⟩ => ⟨⟨hsi, hn, .inr hc⟩, hf⟩

/-- R91, R107: in a state of the invariant the engine's turn stops only at an overrun. -/
theorem engineStep_total {s : State} (h : Inv s) :
    (∃ t, engineStep s = .next t) ∨ Overruns s ∧ engineStep s = .fault (.bufferOverrun s.eng.wPtr) := by
  cases he : engineEnabled s
  · exact .inl ⟨s, by simp [engineStep, he]⟩
  cases hes : s.eng.es
  case wait => exact runPhase_total h hes (by simpa [engineEnabled, hes] using he)
  all_goals exact .inl ⟨_, by rw [engineStep, if_pos he, hes]⟩

/-- R127: in a state of the invariant the controller's turn does not stop. -/
theorem controllerStep_total {s : State} (h : Inv s) : ∃ t, controllerStep s = .next t := by
  unfold controllerStep
  rcases busRequest_cases s with ⟨hr, -⟩ |
    ⟨-, -, ⟨hr, -⟩ | ⟨hr, -⟩ | ⟨hr, -, -, ha⟩ | ⟨hr, -, -, ha⟩ | ⟨hr, -, -, h0, h1, h2⟩⟩ <;> rw [hr]
  · exact ⟨_, rfl⟩
  · exact ⟨_, rfl⟩
  · exact ⟨_, rfl⟩
  · obtain ⟨hown, -, hdata⟩ := h.transmit ha
    have hmay : mayTransmit s = true := by
      cases hf : s.bus.firstTx
      · simp [mayTransmit, hown, hf, hdata hf]
      · simp [mayTransmit, hown, hf]
    exact ⟨_, if_pos hmay⟩
  · obtain ⟨hown, hfirst, hmode, -⟩ := h.receive ha
    exact ⟨_, if_pos (by simp [mayReceive, hown, hfirst, hmode])⟩
  · have h3 := h.noThree
    simp only [actNone, actTx, actRx] at h0 h1 h2
    bv_omega

end Sys2Proof.Machine
end

section
/-! Fair runs (R137): every move brings a command nearer to its end, so a run that never ends comes to rest. -/

namespace Sys2Proof.Machine

/-! ### The stages of a command -/

/-- Where a command is: the steps of the sequencer and of the controller between them pass the stages in this order, those
of a byte once for each byte. -/
inductive Stage where
  /-- START is to be taken (R92). -/
  | request
  /-- A start is requested (R119, R120). -/
  | starting
  /-- The start is reported (R96, R97). -/
  | started
  /-- The address byte is to be transmitted (R122). -/
  | addressing
  /-- The answer to a byte, or its loss, is reported (R98 to R106). -/
  | reported
  /-- A data byte is to be transmitted or received (R123, R125). -/
  | moving
  /-- The loop has ended (R108). -/
  | ended
  /-- A STOP is requested (R129, R130). -/
  | stopping
  /-- The STOP is made (R109). -/
  | stopped
  /-- No command is in flight. -/
  | idle
  deriving DecidableEq

/-- The stage that sequencer and controller registers give. -/
def stage (s : State) : Stage :=
  match s.eng.es with
  | .idle => .idle
  | .start => .request
  | .wait =>
    if s.ctl.con.sta then (if s.ctl.con.si then .started else .starting)
    else if s.ctl.con.si then .reported
    else if s.ctl.act = actTx ∧ s.bus.firstTx = true then .addressing
    else .moving
  | .term => .ended
  | .stopWait => if s.ctl.con.sto then .stopping else .stopped

/-- A bound on the moves that a command has still to make. -/
def remaining (s : State) : Nat :=
  match stage s with
  | .request => 2 * s.eng.wLen.toNat + 10
  | .starting => 2 * s.eng.wLen.toNat + 9
  | .started => 2 * s.eng.wLen.toNat + 8
  | .addressing => 2 * s.eng.wLen.toNat + 7
  | .reported => 2 * s.eng.wLen.toNat + (if s.ctl.stat = 0x40 then 6 else 4)
  | .moving => 2 * s.eng.wLen.toNat + 5
  | .ended => 3
  | .stopping => 2
  | .stopped => 1
  | .idle => 0

/-- Every move brings the command nearer to its end. -/
theorem Move.remaining_lt {s t : State} (h : Inv s) (hm : Move s t) : remaining t < remaining s := by
  cases hm with
  | requestStart hes =>
    obtain ⟨hsi, -, -⟩ := h.quiet (by simp [hes])
    simp [remaining, stage, hes, hsi]
  | start e n htx hrx hes hen hsi hsta => simp [remaining, stage, hes, hsi, hsta]
  | placeAddress hes hsi hsta hbus =>
    simp [remaining, stage, hes, hsi, hsta, hbus, startedBus]
  | address e n a htx hrx hans hes hen hsi hsta hact hown hfirst hdat =>
    simp [remaining, stage, hes, hsi, hsta, hact, hfirst]
    split <;> omega
  | send e n a htx hrx hans hes hen hsi hsta hact hown hfirst hmode hdir =>
    cases a <;> simp [remaining, stage, hes, hsi, hsta, hact, hfirst]
  | receive e n b htx hrx hans hes hen hsi hsta hact hown hfirst hmode hdir =>
    cases haa : s.ctl.con.aa <;> simp [remaining, stage, hes, hsi, hsta, hact, hfirst, haa]
  | lose e n hans hes hen hsi hsta hown =>
    by_cases hp : s.ctl.act = actTx ∧ s.bus.firstTx = true <;>
      simp [remaining, stage, hes, hsi, hsta, arbitrationLost, hp]
  | sendNext hes hsi hstat hsta hown hfirst hmode hdir hlen =>
    have := lengthAfterByte_toNat (s := setDat (Memory.read s.mem s.eng.wPtr.toNat) s) hlen
    rcases hstat with hstat | hstat <;>
      simp [remaining, stage, hes, hsi, hsta, hstat, hfirst, HandlerOutcome.next] at this ⊢ <;> omega
  | sendDone hes hsi hstat hsta hown hdir hlen =>
    rcases hstat with hstat | hstat <;> simp [remaining, stage, hes, hsi, hsta, hstat, HandlerOutcome.next]
  | fail hes hsi hstat hsta =>
    rcases hstat with hstat | hstat | hstat | hstat <;>
      simp [remaining, stage, hes, hsi, hsta, hstat]
  | receiveFirst hes hsi hstat hsta hown hfirst hmode hdir =>
    simp [remaining, stage, hes, hsi, hsta, hstat, hfirst, HandlerOutcome.next]
  | store hes hsi hstat hsta hown hfirst hmode hdir hlen =>
    have := lengthAfterByte_toNat (s := { s with mem := Memory.write s.mem s.eng.wPtr.toNat s.ctl.dat }) hlen
    rcases afterStore_cases { s with mem := Memory.write s.mem s.eng.wPtr.toNat s.ctl.dat } with
      ⟨-, ht⟩ | ⟨-, ht⟩ | ⟨-, -, ht⟩ <;> rw [ht] <;> rcases hstat with hstat | hstat <;>
      simp [remaining, stage, hes, hsi, hsta, hstat, hfirst, HandlerOutcome.next] at this ⊢ <;> omega
  | requestStop hes hts => simp [remaining, stage, hes]
  | finish hend =>
    rcases hend with ⟨hes, -⟩ | ⟨hes, hsto⟩ <;> rcases finish_cases s with ⟨-, ht⟩ | ⟨-, ht⟩ <;> rw [ht] <;>
      simp [remaining, stage, *]
  | stop e n htx hrx hes hsto hown => simp [remaining, stage, hes, hsto]
  | stopOnFree hes hsto hown => simp [remaining, stage, hes, hsto]

/-! ### A turn while a command is in flight -/

/-- What a turn that is no move leaves of the block while a command is in flight. -/
structure SameBlock (s t : State) : Prop where
  status : t.status = s.status
  eng : t.eng = s.eng
  ctl : t.ctl = s.ctl
  bus : t.bus = s.bus
  faults : t.faults = s.faults

theorem SameBlock.refl (s : State) : SameBlock s s := ⟨rfl, rfl, rfl, rfl, rfl⟩

theorem SameBlock.trans {s t u : State} (h : SameBlock s t) (h' : SameBlock t u) : SameBlock s u :=
  ⟨h'.status.trans h.status, h'.eng.trans h.eng, h'.ctl.trans h.ctl, h'.bus.trans h.bus, h'.faults.trans h.faults⟩

theorem Alike.sameBlock {s t : State} (h : Alike s t) : SameBlock s t := by
  obtain ⟨_, _, _, _, rfl, -, -⟩ := h
  exact ⟨rfl, rfl, rfl, rfl, rfl⟩

theorem SameBlock.remaining_eq {s t : State} (h : SameBlock s t) : remaining t = remaining s := by
  simp [remaining, stage, h.eng, h.ctl, h.bus]

theorem SameBlock.busRequest_eq {s t : State} (h : SameBlock s t) : busRequest t = busRequest s := by
  simp [busRequest, h.ctl]

theorem SameBlock.enabled_eq {s t : State} (h : SameBlock s t) (f : FairStep) : f.enabled t = f.enabled s := by
  cases f <;> simp [FairStep.enabled, mayTransmit, mayReceive, h.busRequest_eq, h.eng, h.ctl, h.bus, h.faults]

theorem SameBlock.waitsForGrant_eq {s t : State} (h : SameBlock s t) : waitsForGrant t = waitsForGrant s := by
  simp [waitsForGrant, h.busRequest_eq, h.bus]

theorem SameBlock.waitsForRelease_eq {s t : State} (h : SameBlock s t) : waitsForRelease t = waitsForRelease s := by
  simp [waitsForRelease, h.busRequest_eq, h.bus]

/-- R76: a command has an effect only while BUSY = 0. -/
theorem not_busy_of_exec_command {s t : State} {w : Word} (h : exec (decodeCmd w) s = .next t) :
    s.status.busy = false := by
  rcases decodeCmd_cases w with hi | hi | hi | hi <;> rw [hi] at h
  · exact (execNop_next (x := cmdIgnored w) h).1
  · exact (execConfigure_next (x := cmdIgnored w) h).1
  · exact (execTransfer_next (x := cmdIgnored w) h).1
  · exact absurd h execCmdReserved_ne_next

/-- R23, R76: while a command is in flight the host changes nothing of the block. -/
theorem hostStep_sameBlock {s t : State} (hb : s.status.busy = true) (ht : hostStep s = .next t) : SameBlock s t := by
  rcases hostStep_next ht with rfl | ⟨r, rfl⟩ | ⟨r, rfl⟩ | ⟨h0, -⟩ | ⟨w, hw⟩ | ⟨a, v, -, -, rfl⟩
  · exact .refl _
  · exact ⟨rfl, rfl, rfl, rfl, rfl⟩
  · exact ⟨rfl, rfl, rfl, rfl, rfl⟩
  · simp [hb] at h0
  · exact absurd (not_busy_of_exec_command hw) (by simp [hb])
  · exact ⟨rfl, rfl, rfl, rfl, rfl⟩

theorem fair_agent_ne_host (f : FairStep) : f.agent ≠ .host := by
  cases f <;> decide

/-- A fair step of the controller is no turn that uses up inputs only: it ends with a phase reported or STO cleared. -/
theorem controller_fair_changes {f : FairStep} {s t : State} (ha : f.agent = .controller) (hf : f.enabled s = true)
    (ht : f.result s = .next t) : t.ctl ≠ s.ctl := by
  have reports {u : State} (hu : u.ctl.con.si = true) (hr : busRequest s ≠ .nothing) : u.ctl ≠ s.ctl := fun he =>
    hr (busRequest_of_si (he ▸ hu))
  have clears {u : State} (hu : u.ctl.con.sto = false) (hr : busRequest s = .stop) : u.ctl ≠ s.ctl := fun he => by
    rcases busRequest_cases s with ⟨hn, -⟩ | ⟨-, -, hc⟩
    · simp [hn] at hr
    · simp [hr, ← he, hu] at hc
  cases f <;> simp only [FairStep.agent, reduceCtorEq] at ha <;>
    simp only [FairStep.enabled, Bool.and_eq_true, beq_iff_eq] at hf <;>
    simp only [FairStep.result, Host.Outcome.next.injEq] at ht <;> subst ht
  case repeatStart => exact reports rfl (by simp [hf])
  case address =>
    obtain ⟨e, n, h | ⟨a, h⟩⟩ := txAddress_cases s <;> rw [h] <;> exact reports rfl (by simp [hf])
  case data =>
    obtain ⟨e, n, h | ⟨a, h⟩⟩ := txData_cases s <;> rw [h] <;> exact reports rfl (by simp [hf])
  case receive =>
    obtain ⟨e, n, h | ⟨a, h⟩⟩ := rxData_cases s <;> rw [h] <;> exact reports rfl (by simp [hf])
  case stop =>
    obtain ⟨-, ⟨hr, -⟩, -⟩ := hf
    exact clears rfl hr
  case stopOnFree =>
    obtain ⟨-, hr, -⟩ := hf
    exact clears rfl hr

/-- The turn of a fair step's agent is a move. -/
theorem fair_turn_move {f : FairStep} {s t : State} (h : Inv s) (hs : s.faults = []) (hf : f.enabled s = true)
    (ht : agentStep f.agent s = .next t) : Move s t := by
  cases ha : f.agent with
  | host => exact absurd ha (fair_agent_ne_host f)
  | engine =>
    have he := (engineEnabled_iff hs).2 ⟨f, ha, hf⟩
    rw [ha] at ht
    rcases engineStep_move h ht with ⟨hn, -⟩ | hm
    · simp [he] at hn
    · exact hm
  | controller =>
    have hr := FairStep.turn hf ▸ ht
    rw [ha] at ht
    rcases controllerStep_move h ht with hl | hm
    · exact absurd hl.sameBlock.ctl (controller_fair_changes ha hf hr)
    · exact hm

/-- A turn while a command is in flight that records no fault is a move, or leaves the block as it is and is no turn of an
agent with a fair step. -/
theorem advance_busy {s : State} (h : Inv s) (hs : s.faults = []) (hb : s.status.busy = true)
    (ht : (advance s).faults = []) :
    (∃ u, SameBlock s u ∧ Inv u ∧ Move u (advance s)) ∨
    SameBlock s (advance s) ∧ ∀ f : FairStep, f.enabled s = true → (takeAgent s).1 ≠ f.agent := by
  have hu := alike_takeAgent s
  have hui := hu.inv h
  have hturn := step_of_no_fault hs
  cases hst : step s with
  | fault f =>
    rw [advance_of_fault hs hst] at ht
    simp at ht
  | refused r =>
    have he : advance s = s := by simp [advance, hst]
    rw [he]
    refine .inr ⟨.refl s, fun f _ ha => ?_⟩
    rw [hst, ha] at hturn
    cases hfa : f.agent <;> rw [hfa] at hturn
    · exact fair_agent_ne_host f hfa
    · rcases engineStep_total hui with ⟨t, he⟩ | ⟨-, he⟩ <;> exact absurd (hturn.trans he) (by simp)
    · obtain ⟨t, he⟩ := controllerStep_total hui
      exact absurd (hturn.trans he) (by simp)
  | next t =>
    rw [advance_of_next hst]
    rw [hst] at hturn
    by_cases hfair : ∃ f : FairStep, f.enabled s = true ∧ (takeAgent s).1 = f.agent
    · obtain ⟨f, hf, ha⟩ := hfair
      rw [ha] at hturn
      have hf' : f.enabled (takeAgent s).2 = true := by rw [hu.sameBlock.enabled_eq, hf]
      exact .inl ⟨_, hu.sameBlock, hui, fair_turn_move hui (by simpa using hs) hf' hturn.symm⟩
    · have hno : ∀ f : FairStep, f.enabled s = true → (takeAgent s).1 ≠ f.agent := fun f hf ha => hfair ⟨f, hf, ha⟩
      cases ha : (takeAgent s).1 <;> rw [ha] at hturn hno
      · exact .inr ⟨hu.sameBlock.trans (hostStep_sameBlock (by simpa using hb) hturn.symm), hno⟩
      · rcases engineStep_move hui hturn.symm with ⟨-, rfl⟩ | hm
        · exact .inr ⟨hu.sameBlock, hno⟩
        · exact .inl ⟨_, hu.sameBlock, hui, hm⟩
      · rcases controllerStep_move hui hturn.symm with hl | hm
        · exact .inr ⟨hu.sameBlock.trans hl.sameBlock, hno⟩
        · exact .inl ⟨_, hu.sameBlock, hui, hm⟩

/-! ### Fair runs -/

/-- R140: no move changes EN. -/
theorem Move.en {s t : State} (hm : Move s t) : t.ctl.con.en = s.ctl.con.en := by
  cases hm with
  | store =>
    rcases afterStore_cases { s with mem := Memory.write s.mem s.eng.wPtr.toNat s.ctl.dat } with
      ⟨-, ht⟩ | ⟨-, ht⟩ | ⟨-, -, ht⟩ <;> rw [ht] <;> rfl
  | finish => rcases finish_cases s with ⟨-, ht⟩ | ⟨-, ht⟩ <;> rw [ht]
  | _ => rfl

theorem inv_advance {s : State} (h : Inv s) : Inv (advance s) := by
  unfold advance
  split
  · exact stepKeepsTheInvariant _ _ h ‹_›
  · split
    · exact h.transport (fun _ => rfl) rfl rfl rfl rfl rfl h.memory
    · exact h
  · exact h

/-- The run from `s` never ends its command and never faults. -/
def Unending (s : State) : Prop := ∀ n, (stateAt n s).status.busy = true ∧ (stateAt n s).faults = []

/-- One turn of an unending run, by `advance_busy`. -/
theorem Unending.turn {s : State} (hun : Unending s) (h : Inv s) (n : Nat) :
    (∃ u, SameBlock (stateAt n s) u ∧ Inv u ∧ Move u (stateAt (n + 1) s)) ∨
    SameBlock (stateAt n s) (stateAt (n + 1) s) ∧
      ∀ f : FairStep, f.enabled (stateAt n s) = true → (takeAgent (stateAt n s)).1 ≠ f.agent := by
  have ht := (hun (n + 1)).2
  rw [stateAt_next] at ht ⊢
  exact advance_busy (stateAt_induct h (fun _ => inv_advance) n) (hun n).2 (hun n).1 ht

theorem Unending.en {s : State} (hun : Unending s) (h : Inv s) (n : Nat) :
    (stateAt n s).ctl.con.en = s.ctl.con.en := by
  induction n with
  | zero => rfl
  | succ n ih =>
    rcases hun.turn h n with ⟨u, hu, -, hm⟩ | ⟨hsame, -⟩
    · rw [hm.en, hu.ctl, ih]
    · rw [hsame.ctl, ih]

/-- An unending run comes to make no move: there is a state from which the block stays as it is, though its fair steps are
passed over. -/
theorem Unending.settles {s : State} (hun : Unending s) (h : Inv s) :
    ∃ n, ∀ m, n ≤ m → SameBlock (stateAt n s) (stateAt m s) ∧
      ∀ f : FairStep, f.enabled (stateAt m s) = true → (takeAgent (stateAt m s)).1 ≠ f.agent := by
  let n := Function.argmin fun n => remaining (stateAt n s)
  have hmin (m : Nat) : remaining (stateAt n s) ≤ remaining (stateAt m s) :=
    Function.argmin_le (fun n => remaining (stateAt n s)) m
  have hrest (m : Nat) (hm : remaining (stateAt m s) = remaining (stateAt n s)) :
      SameBlock (stateAt m s) (stateAt (m + 1) s) ∧
        ∀ f : FairStep, f.enabled (stateAt m s) = true → (takeAgent (stateAt m s)).1 ≠ f.agent := by
    rcases hun.turn h m with ⟨u, hu, hui, hmv⟩ | hsame
    · have := hmv.remaining_lt hui
      have := hu.remaining_eq
      have := hmin (m + 1)
      omega
    · exact hsame
  have hsame (m : Nat) (hm : n ≤ m) : SameBlock (stateAt n s) (stateAt m s) := by
    induction m, hm using Nat.le_induction with
    | base => exact .refl _
    | succ m _ ih => exact ih.trans (hrest m ih.remaining_eq).1
  exact ⟨n, fun m hm => ⟨hsame m hm, (hrest m (hsame m hm).remaining_eq).2⟩⟩

/-- A command in flight on an enabled controller has a fair step or one of the two waits. -/
theorem Inv.fair_or_waits {s : State} (h : Inv s) (hs : s.faults = []) (hb : s.status.busy = true)
    (hen : s.ctl.con.en = true) :
    (∃ f : FairStep, f.enabled s = true) ∨ waitsForGrant s = true ∨ waitsForRelease s = true := by
  rcases engineAndControllerTakeTurns.2.1 s h hb hen with he | hc
  · obtain ⟨f, -, hf⟩ := (engineEnabled_iff hs).1 he
    exact .inl ⟨f, hf⟩
  · rcases controllerEnabled_cases hs hc with ⟨f, -, hf⟩ | hg | hr | ⟨a, hf⟩
    · exact .inl ⟨f, hf⟩
    · exact .inr (.inl hg)
    · exact .inr (.inr hr)
    · obtain ⟨t, ht⟩ := controllerStep_total h
      rw [hf] at ht
      cases ht

/-- Settles O51: an unending run settles in a state with no fair step, since a fair run would take it; so it waits. -/
theorem fairRunEndsOrWaits : Obligations.FairRunEndsOrWaits := by
  intro s h hs hb hfair
  by_cases hend : ∃ n, (stateAt n s).status.busy = false
  · exact .inl hend
  by_cases hfault : ∃ n, (stateAt n s).faults ≠ []
  · exact .inr (.inl hfault)
  have hun : Unending s := fun n => ⟨by simpa using fun hn => hend ⟨n, hn⟩, by simpa using fun hn => hfault ⟨n, hn⟩⟩
  cases hen : s.ctl.con.en
  · exact .inr (.inr (.inr (.inr rfl)))
  obtain ⟨n, hn⟩ := hun.settles h
  have hi : Inv (stateAt n s) := stateAt_induct h (fun _ => inv_advance) n
  rcases hi.fair_or_waits (hun n).2 (hun n).1 ((hun.en h n).trans hen) with ⟨f, hf⟩ | hg | hr
  · have hall (m : Nat) (hm : n ≤ m) : f.enabled (stateAt m s) = true := by rw [(hn m hm).1.enabled_eq, hf]
    obtain ⟨m, hm, ha⟩ := hfair f n hall
    exact absurd ha ((hn m hm).2 f (hall m hm))
  · exact .inr (.inr (.inl ⟨n, fun m hm => by rw [(hn m hm).1.waitsForGrant_eq, hg]⟩))
  · exact .inr (.inr (.inr (.inl ⟨n, fun m hm => by rw [(hn m hm).1.waitsForRelease_eq, hr]⟩)))

end Sys2Proof.Machine
end

section
/-! SUPPORT. How far a TRANSFER has come, by the stage of its command: its part of TRACE, the bytes moved, the answers
used up. -/

namespace Sys2Proof.Machine

/-! ### What a move leaves alone -/

/-- What a move of a TRANSFER leaves alone (R29, R110). -/
structure MoveFrame (s t : State) : Prop where
  req : t.req = s.req
  faults : t.faults = s.faults
  host : t.host = s.host
  memMap : t.memMap = s.memMap
  wSla : t.eng.wSla = s.eng.wSla
  wBeg : t.eng.wBeg = s.eng.wBeg
  wEnd : t.eng.wEnd = s.eng.wEnd
  wWarm : t.eng.wWarm = s.eng.wWarm
  cfg : t.status.cfg = s.status.cfg

theorem Move.frame {s t : State} (hm : Move s t) (hw : s.eng.wWarm = false) : MoveFrame s t := by
  cases hm with
  | store =>
    rcases afterStore_cases { s with mem := Memory.write s.mem s.eng.wPtr.toNat s.ctl.dat } with
      ⟨-, ht⟩ | ⟨-, ht⟩ | ⟨-, -, ht⟩ <;> rw [ht] <;> constructor <;> rfl
  | finish =>
    rcases finish_cases s with ⟨hwarm, -⟩ | ⟨-, ht⟩
    · simp [hw] at hwarm
    · rw [ht]; constructor <;> rfl
  | _ => constructor <;> rfl

/-- A move belongs to a command in flight. -/
theorem Move.es_ne_idle {s t : State} (hm : Move s t) : s.eng.es ≠ .idle := by
  cases hm with
  | finish h => rcases h with ⟨hes, -⟩ | ⟨hes, -⟩ <;> simp [hes]
  | _ => simp [*]

/-! ### The events of a TRANSFER -/

theorem writeEvents_succ (m : Memory) (base k : Nat) :
    writeEvents m base (k + 1) = writeEvents m base k ++ [.txd (Memory.read m (base + k)) .ack] := by
  simp [writeEvents, List.range_succ]

/-- The events of the first bytes of a read of `n` bytes, each with the acknowledge bit R114 gives it. -/
def receiveEvents (n : Nat) (bytes : List Byte) : List BusEvent := bytes.mapIdx fun i b => .rxd b (readAck n i)

theorem receiveEvents_concat (n : Nat) (bytes : List Byte) (b : Byte) :
    receiveEvents n (bytes ++ [b]) = receiveEvents n bytes ++ [.rxd b (readAck n bytes.length)] := by
  simp [receiveEvents]

/-- R114: every byte but the last is ACKed. -/
theorem readAck_of_ne {n i : Nat} (h : i + 1 ≠ n) : readAck n i = .ack := by
  simp [readAck, h]

/-- R114: of two or more bytes the last is NACKed. -/
theorem readAck_last {n i : Nat} (hn : 2 ≤ n) (h : i + 1 = n) : readAck n i = .nack := by
  simp [readAck, hn, h]

/-- R114: a single byte, or the first of more, is ACKed. -/
theorem readAck_first (n : Nat) : readAck n 0 = .ack := by
  simp [readAck]
  omega

/-! ### The state of a TRANSFER in flight

`s₀` is the idle state whose request the host's CMD write takes. -/

/-- What stays as it was issued, up to the host's next command. -/
structure Issued (s₀ s : State) : Prop where
  inv : Inv s
  faults : s.faults = []
  req : s.req = s₀.req
  program : s.host.program = [.poll]
  memMap : s.memMap = s₀.memMap
  cfg : s.status.cfg = s₀.status.cfg
  wSla : s.eng.wSla = s₀.req.sla
  wBeg : s.eng.wBeg = s₀.req.buf
  wEnd : s.eng.wEnd.toNat = s₀.req.buf.toNat + s₀.req.len.toNat
  wWarm : s.eng.wWarm = false

/-- Up to the address byte's answer. -/
structure Opening (s₀ s : State) (events : List BusEvent) : Prop where
  trace : s.trace = s₀.trace ++ events
  len : s.eng.wLen = s₀.req.len
  mem : s.mem = s₀.mem
  tx : s.env.tx = s₀.env.tx
  rx : s.env.rx = s₀.env.rx

/-- The first events of a transfer whose address is answered (R88). -/
def openEvents (s₀ : State) : List BusEvent := [startEvent s₀.bus.own, .addr s₀.req.sla .ack]

/-- The first `k` bytes of a write are on the bus. -/
structure Sent (s₀ s : State) (k : Nat) : Prop where
  dir : slaDir s₀.req.sla = false
  trace : s.trace = s₀.trace ++ (openEvents s₀ ++ writeEvents s₀.mem s₀.req.buf.toNat k)
  mem : s.mem = s₀.mem
  tx : s.env.tx = s₀.env.tx.drop (k + 1)

/-- The bytes of a read are in the buffer, in arrival order, and every byte outside the window is as it was (R51). -/
structure Filled (s₀ : State) (m : Memory) (bytes : List Byte) : Prop where
  stored : ∀ i (h : i < bytes.length), Memory.read m (s₀.req.buf.toNat + i) = bytes[i]
  other : ∀ a, a < s₀.req.buf.toNat ∨ s₀.req.buf.toNat + s₀.req.len.toNat ≤ a → Memory.read m a = Memory.read s₀.mem a

/-- The bytes are the environment's first answers to receives. -/
def Answered (s₀ : State) (bytes : List Byte) : Prop :=
  ∀ i b, bytes[i]? = some b → Next (s₀.env.rx.drop i) (.byte b)

theorem Answered.concat {s₀ : State} {bytes : List Byte} {b : Byte} (h : Answered s₀ bytes)
    (hb : Next (s₀.env.rx.drop bytes.length) (.byte b)) : Answered s₀ (bytes ++ [b]) := by
  intro i c hc
  rcases Nat.lt_trichotomy i bytes.length with hlt | rfl | hgt
  · rw [List.getElem?_append_left hlt] at hc
    exact h i c hc
  · obtain rfl : b = c := by simpa using hc
    exact hb
  · rw [List.getElem?_eq_none (by simp; omega)] at hc
    cases hc

/-- The `bytes` of a read have arrived. -/
structure Received (s₀ s : State) (bytes : List Byte) : Prop where
  dir : slaDir s₀.req.sla = true
  trace : s.trace = s₀.trace ++ (openEvents s₀ ++ receiveEvents s₀.req.len.toNat bytes)
  rx : s.env.rx = s₀.env.rx.drop bytes.length
  answered : Answered s₀ bytes

/-- The byte to come of a read whose first bytes are `stored`: how many are left, and the acknowledge bit that AA gives
it (R114). -/
structure Expecting (s₀ s : State) (stored : List Byte) : Prop where
  filled : Filled s₀ s.mem stored
  left : stored.length + s.eng.wLen.toNat = s₀.req.len.toNat
  more : s.eng.wLen ≠ 0 ∨ s₀.req.len.toNat = 0
  aa : s.ctl.con.aa = decide (readAck s₀.req.len.toNat stored.length = .ack)

/-- The data bytes that a whole transfer has moved, with what it leaves in memory. -/
def Moved (s₀ : State) (m : Memory) (data : List BusEvent) : Prop :=
  slaDir s₀.req.sla = false ∧ data = writeEvents s₀.mem s₀.req.buf.toNat s₀.req.len.toNat ∧ m = s₀.mem ∨
  slaDir s₀.req.sla = true ∧ ∃ bytes, bytes.length = s₀.req.len.toNat ∧ data = readEvents bytes ∧
    Filled s₀ m bytes ∧ Answered s₀ bytes

/-- Every byte is moved; `close` are the events after the last. -/
def Complete (s₀ s : State) (close : List BusEvent) : Prop :=
  ∃ data, s.trace = s₀.trace ++ (openEvents s₀ ++ data ++ close) ∧ Moved s₀ s.mem data

/-- How far a transfer that has met no failure has come, by its stage. -/
def Progress (s₀ s : State) : Prop :=
  match stage s with
  | .request | .starting => Opening s₀ s [] ∧ s.bus.own = s₀.bus.own
  | .started | .addressing => Opening s₀ s [startEvent s₀.bus.own]
  | .reported =>
    (s.ctl.stat = 0x18 ∨ s.ctl.stat = 0x28) ∧ (∃ k, Sent s₀ s k ∧ k + s.eng.wLen.toNat = s₀.req.len.toNat) ∨
    s.ctl.stat = 0x40 ∧ Received s₀ s [] ∧ s.mem = s₀.mem ∧ s.eng.wLen = s₀.req.len ∨
    (s.ctl.stat = 0x50 ∨ s.ctl.stat = 0x58) ∧
      ∃ stored, Received s₀ s (stored ++ [s.ctl.dat]) ∧ Expecting s₀ s stored
  | .moving =>
    s.ctl.act = actTx ∧ (∃ k, Sent s₀ s k ∧ k + 1 + s.eng.wLen.toNat = s₀.req.len.toNat ∧
      s.ctl.dat = Memory.read s₀.mem (s₀.req.buf.toNat + k)) ∨
    s.ctl.act = actRx ∧ ∃ stored, Received s₀ s stored ∧ Expecting s₀ s stored
  | .ended => Complete s₀ s []
  | .stopping => Complete s₀ s [] ∧ s.bus.own = .held
  | .stopped => Complete s₀ s [.stop]
  | .idle => False

/-- An answer of the environment that a responsive peripheral does not give: to one of the bytes the transfer transmits, or
to one of its receives. -/
def Unresponsive (s₀ : State) : Prop :=
  (∃ c a, (slaDir s₀.req.sla = true → c = 0) ∧ c ≤ s₀.req.len.toNat ∧ a ≠ .reply .ack ∧ Next (s₀.env.tx.drop c) a) ∨
  slaDir s₀.req.sla = true ∧ ∃ c, (c < s₀.req.len.toNat ∨ s₀.req.len.toNat = 0) ∧ Next (s₀.env.rx.drop c) .arb

/-- The transfer has met a failure: such an answer, and its event. -/
def Failure (s₀ s : State) : Prop :=
  Unresponsive s₀ ∧ ∃ part, s.trace = s₀.trace ++ part ∧ ∃ e ∈ part, e.isFailure = true

/-- The failure is reported, or its handler has run. -/
def FailureSeen (s : State) : Prop :=
  s.eng.es = .wait ∧ s.ctl.con.si = true ∧
    (s.ctl.stat = 0x20 ∨ s.ctl.stat = 0x30 ∨ s.ctl.stat = 0x38 ∨ s.ctl.stat = 0x48) ∨
  s.eng.wFail = true ∧ (s.eng.es = .term ∨ s.eng.es = .stopWait)

/-- How a transfer in flight stands: it has met no failure yet, or its failure is seen. -/
def Continues (s₀ s : State) : Prop := s.eng.wFail = false ∧ Progress s₀ s ∨ Failure s₀ s ∧ FailureSeen s

/-- A transfer in flight. -/
structure Running (s₀ s : State) : Prop where
  issued : Issued s₀ s
  busy : s.status.busy = true
  continues : Continues s₀ s

/-- How a transfer has ended: whole, or with a failure (R84). -/
def Outcome (s₀ s : State) : Prop :=
  s.status.fail = false ∧ Complete s₀ s (stopEvents s₀.req.tstop) ∧ s.eng.wTstop = s₀.req.tstop ∧
    s.bus.own = (if s₀.req.tstop then .free else .held) ∨
  s.status.fail = true ∧ Failure s₀ s ∧ s.eng.wTstop = true ∧ s.bus.own = .free

/-- A transfer that has ended. -/
structure Ended (s₀ s : State) : Prop where
  issued : Issued s₀ s
  idle : s.status.busy = false
  outcome : Outcome s₀ s

/-! ### Progress, stage by stage -/

theorem progress_request {s₀ s : State} (h : stage s = .request) :
    Progress s₀ s ↔ Opening s₀ s [] ∧ s.bus.own = s₀.bus.own := by
  simp [Progress, h]

theorem progress_starting {s₀ s : State} (h : stage s = .starting) :
    Progress s₀ s ↔ Opening s₀ s [] ∧ s.bus.own = s₀.bus.own := by
  simp [Progress, h]

theorem progress_started {s₀ s : State} (h : stage s = .started) :
    Progress s₀ s ↔ Opening s₀ s [startEvent s₀.bus.own] := by
  simp [Progress, h]

theorem progress_addressing {s₀ s : State} (h : stage s = .addressing) :
    Progress s₀ s ↔ Opening s₀ s [startEvent s₀.bus.own] := by
  simp [Progress, h]

theorem progress_reported {s₀ s : State} (h : stage s = .reported) :
    Progress s₀ s ↔
      (s.ctl.stat = 0x18 ∨ s.ctl.stat = 0x28) ∧ (∃ k, Sent s₀ s k ∧ k + s.eng.wLen.toNat = s₀.req.len.toNat) ∨
      s.ctl.stat = 0x40 ∧ Received s₀ s [] ∧ s.mem = s₀.mem ∧ s.eng.wLen = s₀.req.len ∨
      (s.ctl.stat = 0x50 ∨ s.ctl.stat = 0x58) ∧
        ∃ stored, Received s₀ s (stored ++ [s.ctl.dat]) ∧ Expecting s₀ s stored := by
  rw [Progress, h]

theorem progress_moving {s₀ s : State} (h : stage s = .moving) :
    Progress s₀ s ↔
      s.ctl.act = actTx ∧ (∃ k, Sent s₀ s k ∧ k + 1 + s.eng.wLen.toNat = s₀.req.len.toNat ∧
        s.ctl.dat = Memory.read s₀.mem (s₀.req.buf.toNat + k)) ∨
      s.ctl.act = actRx ∧ ∃ stored, Received s₀ s stored ∧ Expecting s₀ s stored := by
  rw [Progress, h]

theorem progress_ended {s₀ s : State} (h : stage s = .ended) : Progress s₀ s ↔ Complete s₀ s [] := by
  simp [Progress, h]

theorem progress_stopping {s₀ s : State} (h : stage s = .stopping) :
    Progress s₀ s ↔ Complete s₀ s [] ∧ s.bus.own = .held := by
  simp [Progress, h]

theorem progress_stopped {s₀ s : State} (h : stage s = .stopped) : Progress s₀ s ↔ Complete s₀ s [.stop] := by
  simp [Progress, h]

theorem not_progress_idle {s₀ s : State} (h : stage s = .idle) : ¬ Progress s₀ s := by
  simp [Progress, h]

/-! ### States that differ in inputs only -/

theorem Opening.alike {s₀ s t : State} {ev : List BusEvent} (h : Opening s₀ s ev) (ha : Alike s t) :
    Opening s₀ t ev := by
  obtain ⟨_, _, _, _, rfl, htx, hrx⟩ := ha
  exact ⟨h.trace, h.len, h.mem, htx.trans h.tx, hrx.trans h.rx⟩

theorem Sent.alike {s₀ s t : State} {k : Nat} (h : Sent s₀ s k) (ha : Alike s t) : Sent s₀ t k := by
  obtain ⟨_, _, _, _, rfl, htx, -⟩ := ha
  exact ⟨h.dir, h.trace, h.mem, htx.trans h.tx⟩

theorem Received.alike {s₀ s t : State} {bytes : List Byte} (h : Received s₀ s bytes) (ha : Alike s t) :
    Received s₀ t bytes := by
  obtain ⟨_, _, _, _, rfl, -, hrx⟩ := ha
  exact ⟨h.dir, h.trace, hrx.trans h.rx, h.answered⟩

theorem Expecting.alike {s₀ s t : State} {stored : List Byte} (h : Expecting s₀ s stored) (ha : Alike s t) :
    Expecting s₀ t stored := by
  obtain ⟨_, _, _, _, rfl, -, -⟩ := ha
  exact ⟨h.filled, h.left, h.more, h.aa⟩

theorem Complete.alike {s₀ s t : State} {close : List BusEvent} (h : Complete s₀ s close) (ha : Alike s t) :
    Complete s₀ t close := by
  obtain ⟨_, _, _, _, rfl, -, -⟩ := ha
  exact h

theorem Progress.alike {s₀ s t : State} (h : Progress s₀ s) (ha : Alike s t) : Progress s₀ t := by
  have hsame := ha.sameBlock
  have hmem : t.mem = s.mem := by
    obtain ⟨_, _, _, _, rfl, -, -⟩ := ha
    rfl
  have hstage : stage t = stage s := by simp [stage, hsame.eng, hsame.ctl, hsame.bus]
  cases hs : stage s <;> rw [hs] at hstage
  · exact (progress_request hstage).2 (((progress_request hs).1 h).imp (·.alike ha) (hsame.bus ▸ ·))
  · exact (progress_starting hstage).2 (((progress_starting hs).1 h).imp (·.alike ha) (hsame.bus ▸ ·))
  · exact (progress_started hstage).2 (((progress_started hs).1 h).alike ha)
  · exact (progress_addressing hstage).2 (((progress_addressing hs).1 h).alike ha)
  · rw [progress_reported hs] at h
    rw [progress_reported hstage, hsame.ctl, hsame.eng, hmem]
    exact h.imp (.imp_right fun ⟨k, hk, hl⟩ => ⟨k, hk.alike ha, hl⟩)
      (.imp (.imp_right fun ⟨hr, hl⟩ => ⟨hr.alike ha, hl⟩)
        (.imp_right fun ⟨l, hr, he⟩ => ⟨l, hr.alike ha, he.alike ha⟩))
  · rw [progress_moving hs] at h
    rw [progress_moving hstage, hsame.ctl, hsame.eng]
    exact h.imp (.imp_right fun ⟨k, hk, hl⟩ => ⟨k, hk.alike ha, hl⟩)
      (.imp_right fun ⟨l, hr, he⟩ => ⟨l, hr.alike ha, he.alike ha⟩)
  · exact (progress_ended hstage).2 (((progress_ended hs).1 h).alike ha)
  · exact (progress_stopping hstage).2 (((progress_stopping hs).1 h).imp (·.alike ha) (hsame.bus ▸ ·))
  · exact (progress_stopped hstage).2 (((progress_stopped hs).1 h).alike ha)
  · exact absurd h (not_progress_idle hs)

theorem Issued.alike {s₀ s t : State} (h : Issued s₀ s) (ha : Alike s t) : Issued s₀ t := by
  have hi := ha.inv h.inv
  obtain ⟨_, _, _, _, rfl, -, -⟩ := ha
  exact { h with inv := hi }

theorem Issued.move {s₀ s t : State} (h : Issued s₀ s) (hm : Move s t) : Issued s₀ t := by
  have hfr := hm.frame h.wWarm
  exact ⟨hm.inv h.inv, hfr.faults.trans h.faults, hfr.req.trans h.req, by rw [hfr.host, h.program],
    hfr.memMap.trans h.memMap, hfr.cfg.trans h.cfg, hfr.wSla.trans h.wSla, hfr.wBeg.trans h.wBeg,
    by rw [hfr.wEnd, h.wEnd], hfr.wWarm.trans h.wWarm⟩

theorem Failure.alike {s₀ s t : State} (h : Failure s₀ s) (ha : Alike s t) : Failure s₀ t := by
  obtain ⟨_, _, _, _, rfl, -, -⟩ := ha
  exact h

theorem Continues.alike {s₀ s t : State} (h : Continues s₀ s) (ha : Alike s t) : Continues s₀ t := by
  rw [Continues, FailureSeen, ha.sameBlock.eng, ha.sameBlock.ctl]
  exact h.imp (.imp_right (·.alike ha)) (.imp_left (·.alike ha))

theorem Running.alike {s₀ s t : State} (h : Running s₀ s) (ha : Alike s t) : Running s₀ t :=
  ⟨h.issued.alike ha, by rw [ha.sameBlock.status, h.busy], h.continues.alike ha⟩

theorem Outcome.alike {s₀ s t : State} (h : Outcome s₀ s) (ha : Alike s t) : Outcome s₀ t := by
  rw [Outcome, ha.sameBlock.status, ha.sameBlock.eng, ha.sameBlock.bus]
  exact h.imp (.imp_right (.imp_left (·.alike ha))) (.imp_right (.imp_left (·.alike ha)))

theorem Ended.alike {s₀ s t : State} (h : Ended s₀ s) (ha : Alike s t) : Ended s₀ t :=
  ⟨h.issued.alike ha, by rw [ha.sameBlock.status, h.idle], h.outcome.alike ha⟩

end Sys2Proof.Machine
end

section
/-! SUPPORT. The moves of a transfer in flight, each by its stage (R87, R88, R113, R114). -/

namespace Sys2Proof.Machine

/-! ### Moves of a transfer that has met no failure -/

/-- R115: W_PTR is past the bytes that have been moved. -/
theorem Issued.wPtr {s₀ s : State} (h : Issued s₀ s) :
    s.eng.wPtr.toNat + s.eng.wLen.toNat = s₀.req.buf.toNat + s₀.req.len.toNat := by
  obtain ⟨h1, h2, h3⟩ := h.inv.progress
  rw [h.wBeg] at h1 h3
  rw [h.wEnd] at h2 h3
  omega

/-- A move that meets a failure: the answer is no responsive peripheral's, and its event is in TRACE. -/
theorem continues_of_failure {s₀ s t : State} {part : List BusEvent} {ev : BusEvent} (hun : Unresponsive s₀)
    (hs : s.trace = s₀.trace ++ part) (ht : t.trace = s.trace ++ [ev]) (hev : ev.isFailure = true)
    (hseen : FailureSeen t) : Continues s₀ t :=
  .inr ⟨⟨hun, part ++ [ev], by rw [ht, hs, List.append_assoc], ev, by simp, hev⟩, hseen⟩

/-- R105, R106: a store fills the next byte of the buffer. -/
theorem Issued.filled_store {s₀ s : State} (hi : Issued s₀ s) {stored : List Byte} (h : Filled s₀ s.mem stored)
    (hleft : stored.length + s.eng.wLen.toNat = s₀.req.len.toNat) (hlen : s.eng.wLen ≠ 0) :
    Filled s₀ (Memory.write s.mem s.eng.wPtr.toNat s.ctl.dat) (stored ++ [s.ctl.dat]) := by
  have hl : s.eng.wLen.toNat ≠ 0 := fun hn => hlen (BitVec.eq_of_toNat_eq hn)
  have hptr : s.eng.wPtr.toNat = s₀.req.buf.toNat + stored.length := by
    have := hi.wPtr
    omega
  rw [hptr]
  refine ⟨fun i hlt => ?_, fun a ha => ?_⟩
  · by_cases hi' : i < stored.length
    · rw [Memory.read_write_other _ _ _ (by omega), List.getElem_append_left hi']
      exact h.stored i hi'
    · have he : i = stored.length := by simp at hlt; omega
      subst he
      simpa using Memory.read_write_same hi.inv.memory.1 _ _
  · rw [Memory.read_write_other _ _ _ (by omega)]
    exact h.other a ha

section
variable {s₀ s : State} (hp : Progress s₀ s)
include hp

/-- A write's ACK is reported after some of its bytes. -/
theorem sent_of_reported (hes : s.eng.es = .wait) (hsi : s.ctl.con.si = true)
    (hstat : s.ctl.stat = 0x18 ∨ s.ctl.stat = 0x28) (hsta : s.ctl.con.sta = false) :
    ∃ k, Sent s₀ s k ∧ k + s.eng.wLen.toNat = s₀.req.len.toNat := by
  rcases (progress_reported (by simp [stage, hes, hsi, hsta])).1 hp with ⟨-, h⟩ | ⟨h, -⟩ | ⟨h, -⟩
  · exact h
  · rcases hstat with hs | hs <;> rw [hs] at h <;> simp at h
  · rcases hstat with hs | hs <;> rw [hs] at h <;> simp at h

/-- A read's byte is reported after some of its bytes. -/
theorem received_of_reported (hes : s.eng.es = .wait) (hsi : s.ctl.con.si = true)
    (hstat : s.ctl.stat = 0x50 ∨ s.ctl.stat = 0x58) (hsta : s.ctl.con.sta = false) :
    ∃ stored, Received s₀ s (stored ++ [s.ctl.dat]) ∧ Expecting s₀ s stored := by
  rcases (progress_reported (by simp [stage, hes, hsi, hsta])).1 hp with ⟨h, -⟩ | ⟨h, -⟩ | ⟨-, h⟩
  · rcases hstat with hs | hs <;> rw [hs] at h <;> simp at h
  · rcases hstat with hs | hs <;> rw [hs] at h <;> simp at h
  · exact h

/-- R124: the loss of arbitration is a failure. -/
theorem continues_lose {e : BusEnv} {n : Nat}
    (hans : s.ctl.act = actTx ∧ Next s.env.tx .arb ∨ s.ctl.act = actRx ∧ Next s.env.rx .arb)
    (hes : s.eng.es = .wait) (hsi : s.ctl.con.si = false) (hsta : s.ctl.con.sta = false) :
    Continues s₀ (arbitrationLost (setAct actNone (withInputs e n s))) := by
  suffices h : Unresponsive s₀ ∧ ∃ part, s.trace = s₀.trace ++ part by
    obtain ⟨hun, part, htr⟩ := h
    exact continues_of_failure hun htr rfl rfl (.inl ⟨hes, rfl, .inr (.inr (.inl rfl))⟩)
  by_cases hq : s.ctl.act = actTx ∧ s.bus.firstTx = true
  · have ho := (progress_addressing (by simp [stage, hes, hsi, hsta, hq])).1 hp
    rcases hans with ⟨-, hans⟩ | ⟨hrx, -⟩
    · exact ⟨.inl ⟨0, .arb, fun _ => rfl, Nat.zero_le _, by simp, ho.tx ▸ hans⟩, _, ho.trace⟩
    · rw [hq.1] at hrx; cases hrx
  · rcases (progress_moving (by simp [stage, hes, hsi, hsta, hq])).1 hp with
      ⟨ha, k, hk, hl, -⟩ | ⟨ha, stored, hr, he⟩
    · rcases hans with ⟨-, hans⟩ | ⟨hrx, -⟩
      · exact ⟨.inl ⟨k + 1, .arb, by simp [hk.dir], by omega, by simp, hk.tx ▸ hans⟩, _, hk.trace⟩
      · rw [ha] at hrx; cases hrx
    · rcases hans with ⟨htx, -⟩ | ⟨-, hans⟩
      · rw [ha] at htx; cases htx
      · refine ⟨.inr ⟨hr.dir, stored.length, ?_, hr.rx ▸ hans⟩, _, hr.trace⟩
        have := he.left
        rcases he.more with h0 | h0
        · have : s.eng.wLen.toNat ≠ 0 := fun hn => h0 (BitVec.eq_of_toNat_eq hn)
          omega
        · exact .inr h0

variable (hf : s.eng.wFail = false)
include hf

/-- R88, R119, R120: the start is the first event. -/
theorem continues_start {e : BusEnv} {n : Nat} (htx : e.tx = s.env.tx) (hrx : e.rx = s.env.rx) (hes : s.eng.es = .wait)
    (hsi : s.ctl.con.si = false) (hsta : s.ctl.con.sta = true) :
    Continues s₀ (enterPhase (startPhase s.bus.own)
      (setBus startedBus (emit (startEvent s.bus.own) (withInputs e n s)))) := by
  obtain ⟨ho, hown⟩ := (progress_starting (by simp [stage, hes, hsi, hsta])).1 hp
  refine .inl ⟨hf, (progress_started (by simp [stage, hes, hsta])).2
    ⟨?_, ho.len, ho.mem, htx.trans ho.tx, hrx.trans ho.rx⟩⟩
  simp [ho.trace, hown]

/-- R96, R97. -/
theorem continues_placeAddress (hes : s.eng.es = .wait) (hsi : s.ctl.con.si = true) (hsta : s.ctl.con.sta = true)
    (hbus : s.bus = startedBus) : Continues s₀ (placeAddress s) := by
  have ho := (progress_started (by simp [stage, hes, hsi, hsta])).1 hp
  exact .inl ⟨hf, (progress_addressing (by simp [stage, hbus, startedBus])).2
    ⟨ho.trace, ho.len, ho.mem, ho.tx, ho.rx⟩⟩

/-- R123: an ACKed byte is one more, a NACKed one is a failure. -/
theorem continues_send {e : BusEnv} {n : Nat} (a : Ack) (htx : e.tx = s.env.tx.tail)
    (hans : Next s.env.tx (.reply a)) (hes : s.eng.es = .wait) (hsi : s.ctl.con.si = false)
    (hsta : s.ctl.con.sta = false) (hact : s.ctl.act = actTx) (hfirst : s.bus.firstTx = false) :
    Continues s₀ (enterPhase (if a = .ack then 0x28 else 0x30)
      (emit (.txd s.ctl.dat a) (setAct actNone (withInputs e n s)))) := by
  rcases (progress_moving (by simp [stage, hes, hsi, hsta, hfirst])).1 hp with ⟨-, k, hk, hl, hdat⟩ | ⟨hrx, -⟩
  · cases a with
    | ack =>
      refine .inl ⟨hf, (progress_reported (by simp [stage, hes, hsta])).2
        (.inl ⟨.inr rfl, k + 1, ⟨hk.dir, ?_, hk.mem, ?_⟩, hl⟩)⟩
      · simp [hk.trace, writeEvents_succ, hdat]
      · simp [htx, hk.tx]
    | nack =>
      exact continues_of_failure (.inl ⟨k + 1, .reply .nack, by simp [hk.dir], by omega, by simp, hk.tx ▸ hans⟩) hk.trace
        rfl rfl (.inl ⟨hes, rfl, .inr (.inl rfl)⟩)
  · rw [hact] at hrx; cases hrx

/-- R114, R125: the byte is acknowledged as AA says. -/
theorem continues_receive {e : BusEnv} {n : Nat} {b : Byte} (hrx : e.rx = s.env.rx.tail)
    (hans : Next s.env.rx (.byte b)) (hes : s.eng.es = .wait) (hsi : s.ctl.con.si = false)
    (hsta : s.ctl.con.sta = false) (hact : s.ctl.act = actRx) (hfirst : s.bus.firstTx = false) :
    Continues s₀ (enterPhase (if s.ctl.con.aa then 0x50 else 0x58)
      (setBus { s.bus with sdrv := s.ctl.con.aa }
        (emit (.rxd b (if s.ctl.con.aa then .ack else .nack)) (setDat b (setAct actNone (withInputs e n s)))))) := by
  rcases (progress_moving (by simp [stage, hes, hsi, hsta, hfirst])).1 hp with ⟨htx, -⟩ | ⟨-, stored, hr, he⟩
  · rw [hact] at htx; cases htx
  · refine .inl ⟨hf, (progress_reported (by simp [stage, hes, hsta])).2
      (.inr (.inr ⟨?_, stored, ⟨hr.dir, ?_, ?_, ?_⟩, he.filled, he.left, he.more, he.aa⟩))⟩
    · cases s.ctl.con.aa <;> simp
    · have hack : (if s.ctl.con.aa then Ack.ack else .nack) = readAck s₀.req.len.toNat stored.length := by
        rw [he.aa]
        cases readAck s₀.req.len.toNat stored.length <;> rfl
      simp [hr.trace, receiveEvents_concat, hack]
    · simp [hrx, hr.rx]
    · exact hr.answered.concat (hr.rx ▸ hans)

/-- R98, R100: with no byte left every byte is on the bus. -/
theorem continues_sendDone (hes : s.eng.es = .wait) (hsi : s.ctl.con.si = true)
    (hstat : s.ctl.stat = 0x18 ∨ s.ctl.stat = 0x28) (hsta : s.ctl.con.sta = false) (hlen : s.eng.wLen = 0) :
    Continues s₀ (epilogue .complete (setAct actNone s)) := by
  obtain ⟨k, hk, hl⟩ := sent_of_reported hp hes hsi hstat hsta
  have hk0 : k = s₀.req.len.toNat := by simpa [hlen] using hl
  subst hk0
  refine .inl ⟨hf, (progress_ended (by simp [stage, HandlerOutcome.next])).2
    ⟨_, ?_, .inl ⟨hk.dir, rfl, hk.mem⟩⟩⟩
  simp [hk.trace]

/-- R103: the first byte is expected. -/
theorem continues_receiveFirst (hes : s.eng.es = .wait) (hsi : s.ctl.con.si = true) (hstat : s.ctl.stat = 0x40)
    (hsta : s.ctl.con.sta = false) (hfirst : s.bus.firstTx = false) :
    Continues s₀ (epilogue .proceed (setAct actRx (setAa true s))) := by
  rcases (progress_reported (by simp [stage, hes, hsi, hsta])).1 hp with ⟨h, -⟩ | ⟨-, hr, hmem, hl⟩ | ⟨h, -⟩
  · simp [hstat] at h
  · refine .inl ⟨hf, (progress_moving (by simp [stage, hsta, hfirst, HandlerOutcome.next])).2
      (.inr ⟨rfl, [], ⟨hr.dir, hr.trace, hr.rx, hr.answered⟩, ⟨by simp, by simp [hmem]⟩, by simp [hl], ?_, ?_⟩)⟩
    · by_cases h0 : s.eng.wLen = 0
      · exact .inr (by rw [← hl, h0]; rfl)
      · exact .inl h0
    · simp [readAck_first]
  · simp [hstat] at h

variable (hi : Issued s₀ s)
include hi

/-- R92. -/
theorem continues_requestStart (hes : s.eng.es = .start) : Continues s₀ (setEs .wait (setSta true s)) := by
  obtain ⟨hsi, -, -⟩ := hi.inv.quiet (by simp [hes])
  obtain ⟨ho, hown⟩ := (progress_request (by simp [stage, hes])).1 hp
  exact .inl ⟨hf, (progress_starting (by simp [stage, hsi])).2 ⟨⟨ho.trace, ho.len, ho.mem, ho.tx, ho.rx⟩, hown⟩⟩

/-- R122: an ACKed address opens the data, a NACKed one is a failure. -/
theorem continues_address {e : BusEnv} {n : Nat} (a : Ack) (htx : e.tx = s.env.tx.tail) (hrx : e.rx = s.env.rx)
    (hans : Next s.env.tx (.reply a)) (hes : s.eng.es = .wait) (hsi : s.ctl.con.si = false)
    (hsta : s.ctl.con.sta = false) (hact : s.ctl.act = actTx) (hfirst : s.bus.firstTx = true)
    (hdat : s.ctl.dat = s.eng.wSla) :
    Continues s₀ (enterPhase (addressPhase s.ctl.dat a)
      (setBus { s.bus with firstTx := false, mode := addressMode s.ctl.dat a }
        (emit (.addr s.ctl.dat a) (setAct actNone (withInputs e n s))))) := by
  have ho := (progress_addressing (by simp [stage, hes, hsi, hsta, hact, hfirst])).1 hp
  have hsla : s.ctl.dat = s₀.req.sla := hdat.trans hi.wSla
  rw [hsla]
  cases a with
  | ack =>
    refine .inl ⟨hf, (progress_reported (by simp [stage, hes, hsta])).2 ?_⟩
    cases hdir : slaDir s₀.req.sla
    · refine .inl ⟨.inl (by simp [addressPhase, hdir]), 0, ⟨hdir, ?_, ho.mem, ?_⟩, ?_⟩
      · simp [ho.trace, openEvents, writeEvents]
      · simp [htx, ho.tx]
      · simp [ho.len]
    · refine .inr (.inl ⟨by simp [addressPhase, hdir], ⟨hdir, ?_, hrx.trans ho.rx, ?_⟩, ho.mem, ho.len⟩)
      · simp [ho.trace, openEvents, receiveEvents]
      · intro i b h
        simp at h
  | nack =>
    refine continues_of_failure (.inl ⟨0, .reply .nack, fun _ => rfl, Nat.zero_le _, by simp, ho.tx ▸ hans⟩) ho.trace
      rfl rfl (.inl ⟨hes, rfl, ?_⟩)
    cases hdir : slaDir s₀.req.sla <;> simp [addressPhase, hdir]

/-- R98, R100: the next byte is the one at W_PTR. -/
theorem continues_sendNext (hes : s.eng.es = .wait) (hsi : s.ctl.con.si = true)
    (hstat : s.ctl.stat = 0x18 ∨ s.ctl.stat = 0x28) (hsta : s.ctl.con.sta = false) (hfirst : s.bus.firstTx = false)
    (hlen : s.eng.wLen ≠ 0) :
    Continues s₀ (epilogue .proceed (setAct actTx (countByte (setDat (Memory.read s.mem s.eng.wPtr.toNat) s)))) := by
  obtain ⟨k, hk, hl⟩ := sent_of_reported hp hes hsi hstat hsta
  have hcount := lengthAfterByte_toNat (s := setDat (Memory.read s.mem s.eng.wPtr.toNat) s) hlen
  have hptr : s.eng.wPtr.toNat = s₀.req.buf.toNat + k := by
    have := hi.wPtr
    omega
  refine .inl ⟨hf, (progress_moving (by simp [stage, hsta, hfirst, HandlerOutcome.next])).2
    (.inl ⟨rfl, k, ⟨hk.dir, hk.trace, hk.mem, hk.tx⟩, ?_, ?_⟩)⟩
  · simp at hcount ⊢
    omega
  · simp [hk.mem, hptr]

/-- R105, R106: the byte is stored, and the next one expected if any is left. -/
theorem continues_store (hes : s.eng.es = .wait) (hsi : s.ctl.con.si = true)
    (hstat : s.ctl.stat = 0x50 ∨ s.ctl.stat = 0x58) (hsta : s.ctl.con.sta = false) (hfirst : s.bus.firstTx = false)
    (hlen : s.eng.wLen ≠ 0) :
    Continues s₀ (afterStore { s with mem := Memory.write s.mem s.eng.wPtr.toNat s.ctl.dat }) := by
  obtain ⟨stored, hr, he⟩ := received_of_reported hp hes hsi hstat hsta
  have hleft := he.left
  have hfill := hi.filled_store he.filled hleft hlen
  have hcount := lengthAfterByte_toNat (s := { s with mem := Memory.write s.mem s.eng.wPtr.toNat s.ctl.dat }) hlen
  have hl : (stored ++ [s.ctl.dat]).length = stored.length + 1 := by simp
  dsimp only at hcount
  rcases afterStore_cases { s with mem := Memory.write s.mem s.eng.wPtr.toNat s.ctl.dat } with
    ⟨h0, ht⟩ | ⟨h1, ht⟩ | ⟨h0, h1, ht⟩ <;> rw [ht]
  · have hn : (stored ++ [s.ctl.dat]).length = s₀.req.len.toNat := by simp [h0] at hcount; omega
    refine .inl ⟨hf, (progress_ended (by simp [stage, HandlerOutcome.next])).2
      ⟨_, ?_, .inr ⟨hr.dir, _, hn, rfl, hfill, hr.answered⟩⟩⟩
    simp only [epilogue_trace, setAct_trace, countByte_trace, hr.trace, List.append_nil]
    rw [readEvents, hn, receiveEvents]
  · refine .inl ⟨hf, (progress_moving (by simp [stage, hsta, hfirst, HandlerOutcome.next])).2
      (.inr ⟨rfl, _, ⟨hr.dir, hr.trace, hr.rx, hr.answered⟩, hfill, ?_, .inl ?_, ?_⟩)⟩
    · simp [h1] at hcount ⊢; omega
    · simp [h1]
    · simp [h1] at hcount
      simp [readAck_last (n := s₀.req.len.toNat) (i := stored.length + 1) (by omega) (by omega)]
  · refine .inl ⟨hf, (progress_moving (by simp [stage, hsta, hfirst, HandlerOutcome.next])).2
      (.inr ⟨rfl, _, ⟨hr.dir, hr.trace, hr.rx, hr.answered⟩, hfill, ?_, .inl ?_, ?_⟩)⟩
    · simp; omega
    · simpa using h0
    · have h0' : (lengthAfterByte { s with mem := Memory.write s.mem s.eng.wPtr.toNat s.ctl.dat }).toNat ≠ 0 :=
        fun hn => h0 (BitVec.eq_of_toNat_eq hn)
      have h1' : (lengthAfterByte { s with mem := Memory.write s.mem s.eng.wPtr.toNat s.ctl.dat }).toNat ≠ 1 :=
        fun hn => h1 (BitVec.eq_of_toNat_eq hn)
      simp [he.aa, readAck_of_ne (n := s₀.req.len.toNat) (i := stored.length + 1) (by omega),
        readAck_of_ne (n := s₀.req.len.toNat) (i := stored.length) (by omega)]

/-- R108: the bus is still held. -/
theorem continues_requestStop (hes : s.eng.es = .term) : Continues s₀ (setEs .stopWait (setSto true s)) := by
  obtain ⟨data, htr, hd⟩ := (progress_ended (by simp [stage, hes])).1 hp
  exact .inl ⟨hf, (progress_stopping (by simp [stage])).2 ⟨⟨data, htr, hd⟩, hi.inv.termHeld hes hf⟩⟩

/-- A move of a transfer that has met no failure, short of its end, moves it on or meets a failure. -/
theorem Move.continues {t : State} (hm : Move s t) (hend : t.eng.es ≠ .idle) : Continues s₀ t := by
  cases hm with
  | requestStart hes => exact continues_requestStart hp hf hi hes
  | start e n htx hrx hes hen hsi hsta => exact continues_start hp hf htx hrx hes hsi hsta
  | placeAddress hes hsi hsta hbus => exact continues_placeAddress hp hf hes hsi hsta hbus
  | address e n a htx hrx hans hes hen hsi hsta hact hown hfirst hdat =>
    exact continues_address hp hf hi a htx hrx hans hes hsi hsta hact hfirst hdat
  | send e n a htx hrx hans hes hen hsi hsta hact hown hfirst hmode hdir =>
    exact continues_send hp hf a htx hans hes hsi hsta hact hfirst
  | receive e n b htx hrx hans hes hen hsi hsta hact hown hfirst hmode hdir =>
    exact continues_receive hp hf hrx hans hes hsi hsta hact hfirst
  | lose e n hans hes hen hsi hsta hown => exact continues_lose hp hans hes hsi hsta
  | sendNext hes hsi hstat hsta hown hfirst hmode hdir hlen =>
    exact continues_sendNext hp hf hi hes hsi hstat hsta hfirst hlen
  | sendDone hes hsi hstat hsta hown hdir hlen => exact continues_sendDone hp hf hes hsi hstat hsta hlen
  | fail hes hsi hstat hsta =>
    exfalso
    rcases (progress_reported (by simp [stage, hes, hsi, hsta])).1 hp with ⟨h, -⟩ | ⟨h, -⟩ | ⟨h, -⟩ <;>
      rcases hstat with hs | hs | hs | hs <;> simp [hs] at h
  | receiveFirst hes hsi hstat hsta hown hfirst hmode hdir => exact continues_receiveFirst hp hf hes hsi hstat hsta hfirst
  | store hes hsi hstat hsta hown hfirst hmode hdir hlen =>
    exact continues_store hp hf hi hes hsi hstat hsta hfirst hlen
  | requestStop hes hts => exact continues_requestStop hp hf hi hes
  | finish h => rcases finish_cases s with ⟨-, ht⟩ | ⟨-, ht⟩ <;> simp [ht] at hend
  | stop e n htx hrx hes hsto hown =>
    obtain ⟨⟨data, htr, hd⟩, -⟩ := (progress_stopping (by simp [stage, hes, hsto])).1 hp
    exact .inl ⟨hf, (progress_stopped (by simp [stage, hes])).2 ⟨data, by simp [htr], hd⟩⟩
  | stopOnFree hes hsto hown =>
    obtain ⟨-, hheld⟩ := (progress_stopping (by simp [stage, hes, hsto])).1 hp
    rw [hown] at hheld
    cases hheld

end

/-! ### Moves of a transfer that has met a failure, and the end -/

/-- A failure stays in TRACE. -/
theorem Failure.mono {s₀ s t : State} (h : Failure s₀ s) {ev : List BusEvent} (ht : t.trace = s.trace ++ ev) :
    Failure s₀ t := by
  obtain ⟨hun, part, htr, e, he, hfail⟩ := h
  exact ⟨hun, part ++ ev, by rw [ht, htr, List.append_assoc], e, by simp [he], hfail⟩

theorem FailureSeen.reported {s : State} (h : FailureSeen s) (hes : s.eng.es = .wait) :
    s.ctl.con.si = true ∧
      (s.ctl.stat = 0x20 ∨ s.ctl.stat = 0x30 ∨ s.ctl.stat = 0x38 ∨ s.ctl.stat = 0x48) := by
  rcases h with ⟨-, h⟩ | ⟨-, h⟩
  · exact h
  · simp [hes] at h

theorem FailureSeen.wFail {s : State} (h : FailureSeen s) (hes : s.eng.es ≠ .wait) : s.eng.wFail = true := by
  rcases h with ⟨h, -⟩ | ⟨h, -⟩
  · exact absurd h hes
  · exact h

/-- A move of a transfer that has met a failure, short of its end, brings it to its forced STOP. -/
theorem Move.failing {s₀ s t : State} (hi : Issued s₀ s) (h : Failure s₀ s) (hs : FailureSeen s) (hm : Move s t)
    (hend : t.eng.es ≠ .idle) : Continues s₀ t := by
  cases hm with
  | fail => exact .inr ⟨h.mono (ev := []) (by simp), .inr ⟨rfl, .inl rfl⟩⟩
  | requestStop hes => exact .inr ⟨h.mono (ev := []) (by simp), .inr ⟨hs.wFail (by simp [hes]), .inr rfl⟩⟩
  | stop e n htx hrx hes => exact .inr ⟨h.mono rfl, .inr ⟨hs.wFail (by simp [hes]), .inr hes⟩⟩
  | stopOnFree hes => exact .inr ⟨h.mono (ev := []) (by simp), .inr ⟨hs.wFail (by simp [hes]), .inr hes⟩⟩
  | finish => rcases finish_cases s with ⟨-, ht⟩ | ⟨-, ht⟩ <;> simp [ht] at hend
  | requestStart hes => simp [FailureSeen, hes] at hs
  | start _ _ _ _ hes _ hsi | address _ _ _ _ _ _ hes _ hsi | send _ _ _ _ _ _ hes _ hsi
  | receive _ _ _ _ _ _ hes _ hsi | lose _ _ _ hes _ hsi =>
    simp [(hs.reported hes).1] at hsi
  | placeAddress hes hsi hsta hbus =>
    exact absurd hbus (bus_ne_startedBus (hi.inv.failing hsi (hs.reported hes).2))
  | sendNext hes _ hstat | sendDone hes _ hstat | store hes _ hstat =>
    rcases (hs.reported hes).2 with hq | hq | hq | hq <;> simp [hq] at hstat
  | receiveFirst hes _ hstat =>
    rcases (hs.reported hes).2 with hq | hq | hq | hq <;> simp [hq] at hstat

/-- R110: only `finish` comes to IDLE. -/
theorem Move.finish_of_idle {s t : State} (hm : Move s t) (hend : t.eng.es = .idle) :
    (s.eng.es = .term ∧ s.eng.wTstop = false ∨ s.eng.es = .stopWait ∧ s.ctl.con.sto = false) ∧ t = Machine.finish s := by
  cases hm with
  | finish h => exact ⟨h, rfl⟩
  | store =>
    rcases afterStore_cases { s with mem := Memory.write s.mem s.eng.wPtr.toNat s.ctl.dat } with
      ⟨-, ht⟩ | ⟨-, ht⟩ | ⟨-, -, ht⟩ <;> simp [ht, HandlerOutcome.next] at hend
  | _ => simp_all [arbitrationLost, HandlerOutcome.next]

/-- The last move of a transfer leaves it whole or with its failure (R84, R110). -/
theorem outcome_finish {s₀ s : State} (h : Running s₀ s)
    (hend : s.eng.es = .term ∧ s.eng.wTstop = false ∨ s.eng.es = .stopWait ∧ s.ctl.con.sto = false) :
    Outcome s₀ (finish s) := by
  obtain ⟨hi, hb, hc⟩ := h
  rcases finish_cases s with ⟨hw, -⟩ | ⟨-, ht⟩
  · simp [hi.wWarm] at hw
  rw [ht]
  rcases hc with ⟨hf, hp⟩ | ⟨hf, hs⟩
  · have hcaller : s.eng.wTstop = s₀.req.tstop := hi.req ▸ hi.inv.caller hb hi.wWarm hf
    rcases hend with ⟨hes, hts⟩ | ⟨hes, hsto⟩
    · have hts₀ : s₀.req.tstop = false := hcaller ▸ hts
      have hwhole : Complete s₀ s (stopEvents s₀.req.tstop) := by
        simpa [stopEvents, hts₀] using (progress_ended (by simp [stage, hes])).1 hp
      exact .inl ⟨hf, hwhole, hcaller, by simp [hts₀, hi.inv.termHeld hes hf]⟩
    · obtain ⟨hts, hown⟩ := hi.inv.stopWait hes
      have hts₀ : s₀.req.tstop = true := hcaller ▸ hts
      have hwhole : Complete s₀ s (stopEvents s₀.req.tstop) := by
        simpa [stopEvents, hts₀] using (progress_stopped (by simp [stage, hes, hsto])).1 hp
      exact .inl ⟨hf, hwhole, hcaller, by simp [hts₀, hown hsto]⟩
  · have hfail := hs.wFail (by rcases hend with ⟨hes, -⟩ | ⟨hes, -⟩ <;> simp [hes])
    have hts := hi.inv.failForces hfail
    rcases hend with ⟨-, hts'⟩ | ⟨hes, hsto⟩
    · simp [hts] at hts'
    · exact .inr ⟨hfail, hf, hts, (hi.inv.stopWait hes).2 hsto⟩

/-- A move of a transfer in flight moves it on or ends it. -/
theorem Running.move {s₀ s t : State} (h : Running s₀ s) (hm : Move s t) : Running s₀ t ∨ Ended s₀ t := by
  have hti := h.issued.move hm
  by_cases hend : t.eng.es = .idle
  · obtain ⟨hfin, rfl⟩ := hm.finish_of_idle hend
    refine .inr ⟨hti, ?_, outcome_finish h hfin⟩
    by_contra hb
    exact hti.inv.busyIff.1 (by simpa using hb) hend
  · refine .inl ⟨hti, hti.inv.busyIff.2 hend, ?_⟩
    rcases h.continues with ⟨hf, hp⟩ | ⟨hf, hs⟩
    · exact hm.continues hp hf h.issued hend
    · exact hm.failing h.issued hf hs hend

end Sys2Proof.Machine
end

section
/-! SUPPORT. Every run of a TRANSFER up to the point of R12, whatever the order of turns and the answers. -/

namespace Sys2Proof.Machine

/-! ### A run of a TRANSFER -/

theorem decodeCmd_transfer {w : Word} (h : w.toNat % 4 = 2) : decodeCmd w = .transfer (cmdIgnored w) := by
  have hop : (cmdOp w).toNat = 2 := by simpa [cmdOp] using h
  simp [decodeCmd, hop]

/-- R82: TRANSFER's issue on an idle block, both ways. -/
theorem execTransfer_idle {s : State} (x : BitVec 30) (hb : s.status.busy = false) :
    execTransfer x s =
      if 2 ^ 32 ≤ s.req.buf.toNat + s.req.len.toNat then .fault (.bufferOverrun s.req.buf)
      else .next (issueTransfer (transferOperands s) false s) := by
  rw [execTransfer, whenIdle, if_neg (by simp [hb])]
  rfl

/-- A request whose window is not all there: it leaves the address space, or MEM, or is a read of no byte. -/
def BadWindow (s₀ : State) : Prop :=
  2 ^ 32 ≤ s₀.req.buf.toNat + s₀.req.len.toNat ∨
  ¬windowExists s₀ s₀.req.buf.toNat s₀.req.len.toNat ∨
  slaDir s₀.req.sla = true ∧ s₀.req.len.toNat = 0

/-- The run has ended with a fault. -/
def Overrun (s₀ s : State) : Prop := (∃ a, s.faults = [.bufferOverrun a]) ∧ BadWindow s₀

/-- Where a run of the host's TRANSFER from `s₀` is. -/
inductive Run (s₀ s : State) : Prop
  | waiting (h : Alike s₀ s)
  | running (h : Running s₀ s)
  | ended (h : Ended s₀ s)
  | overrun (h : Overrun s₀ s)

/-- The state from which the host's program is one TRANSFER and a poll. -/
structure Asked (s₀ : State) (w : Word) : Prop where
  faults : s₀.faults = []
  idle : s₀.status.busy = false
  inv : Inv s₀
  program : s₀.host.program = [.write .word 0x00 w, .poll]
  transfer : w.toNat % 4 = 2

/-- A turn of engine or controller in an idle block uses up inputs only. -/
theorem idle_turn {a : Agent} {s : State} (h : Inv s) (hb : s.status.busy = false) (ha : a ≠ .host) :
    ∃ t, agentStep a s = .next t ∧ Alike s t := by
  have hes := h.es_of_not_busy hb
  cases a with
  | host => exact absurd rfl ha
  | engine => exact ⟨s, by simp [agentStep, engineStep, engineEnabled, hes], .refl s⟩
  | controller =>
    obtain ⟨t, ht⟩ := controllerStep_total h
    rcases controllerStep_move h ht with hl | hm
    · exact ⟨t, ht, hl⟩
    · exact absurd hes hm.es_ne_idle

theorem advance_of_turn_next {s t : State} (hs : s.faults = [])
    (h : agentStep (takeAgent s).1 (takeAgent s).2 = .next t) : advance s = t :=
  advance_of_next ((step_of_no_fault hs).trans h)

theorem advance_of_turn_fault {s : State} {f : Fault} (hs : s.faults = [])
    (h : agentStep (takeAgent s).1 (takeAgent s).2 = .fault f) : advance s = recordFault f s :=
  advance_of_fault hs ((step_of_no_fault hs).trans h)

theorem hostStep_poll {s : State} (h : s.host.program = [.poll]) : hostStep s = .next (hostPoll s) := by
  simp [hostStep, h, hostAccess]

theorem overrun_recordFault {s₀ s : State} (a : Word) (hs : s.faults = []) (hbad : BadWindow s₀) :
    Overrun s₀ (recordFault (.bufferOverrun a) s) := ⟨⟨a, by simp [hs]⟩, hbad⟩

/-- R77, R82: the issue step of the host's TRANSFER. -/
theorem running_issue {s₀ u : State} {w : Word} (h₀ : Asked s₀ w) (hu : Alike s₀ u)
    (hlim : s₀.req.buf.toNat + s₀.req.len.toNat < 2 ^ 32) :
    Running s₀ (issueTransfer (transferOperands (popHost u)) false (popHost u)) := by
  have hui := inv_popHost (hu.inv h₀.inv)
  obtain ⟨_, ⟨_, tx, rx, _⟩, _, _, rfl, htx, hrx⟩ := hu
  dsimp only at htx hrx
  subst htx hrx
  refine ⟨⟨inv_issueTransfer hui h₀.idle hlim (fun _ => rfl) (by simp), h₀.faults, rfl, ?_, rfl, rfl, rfl, rfl, ?_, rfl⟩,
    rfl, .inl ⟨rfl, (progress_request rfl).2 ⟨⟨?_, rfl, rfl, rfl, rfl⟩, rfl⟩⟩⟩
  · simp [popHost, h₀.program]
  · exact Nat.mod_eq_of_lt hlim
  · exact (List.append_nil _).symm

/-- R76, R82: the host's CMD write issues the transfer, or its window leaves the address space. -/
theorem run_issue {s₀ s : State} {w : Word} (h₀ : Asked s₀ w) (ha : Alike s₀ s) (hturn : (takeAgent s).1 = .host) :
    Run s₀ (advance s) := by
  have hs : s.faults = [] := by rw [ha.sameBlock.faults, h₀.faults]
  have hu := ha.trans (alike_takeAgent s)
  have hreq : (takeAgent s).2.req = s₀.req := by
    obtain ⟨_, _, _, _, hq, -, -⟩ := hu
    rw [hq]
  have hp : (takeAgent s).2.host.program = [.write .word 0x00 w, .poll] := by
    obtain ⟨_, _, _, _, hq, -, -⟩ := hu
    rw [hq, ← h₀.program]
  have hidle : (popHost (takeAgent s).2).status.busy = false := by
    rw [popHost_status, hu.sameBlock.status, h₀.idle]
  have hcmd : agentStep (takeAgent s).1 (takeAgent s).2 = execTransfer (cmdIgnored w) (popHost (takeAgent s).2) := by
    rw [hturn, agentStep, hostStep_command hp, decodeCmd_transfer h₀.transfer, exec]
  rw [execTransfer_idle _ hidle, popHost_req, hreq] at hcmd
  by_cases hlim : 2 ^ 32 ≤ s₀.req.buf.toNat + s₀.req.len.toNat
  · rw [advance_of_turn_fault hs (hcmd.trans (if_pos hlim))]
    exact .overrun (overrun_recordFault _ hs (.inl hlim))
  · rw [advance_of_turn_next hs (hcmd.trans (if_neg hlim))]
    exact .running (running_issue h₀ hu (Nat.lt_of_not_le hlim))

/-- A byte that is not there is one of a bad window. -/
theorem Running.badWindow {s₀ s : State} (h : Running s₀ s) (ho : Overruns s) : BadWindow s₀ := by
  obtain ⟨hi, -, h⟩ := h
  obtain ⟨hsi, habsent, hmoves⟩ := ho
  have hes := hi.inv.es_of_si hsi
  by_cases h0 : s.eng.wLen = 0
  · -- a byte was received though none is left: a read of no byte
    have hstat : s.ctl.stat = 0x50 ∨ s.ctl.stat = 0x58 := by
      rcases hmoves with ⟨-, hne⟩ | hstat
      · exact absurd h0 hne
      · exact hstat
    rcases h with ⟨-, hp⟩ | ⟨-, hs⟩
    · have hsta := hi.inv.sta_of_bus hsi (bus_ne_startedBus (hi.inv.reading hsi (.inr hstat)).2.1)
      obtain ⟨stored, hr, he⟩ := received_of_reported hp hes hsi hstat hsta
      exact .inr (.inr ⟨hr.dir, he.more.resolve_left (absurd h0)⟩)
    · rcases (hs.reported hes).2 with hq | hq | hq | hq <;> simp [hq] at hstat
  · have hw := hi.inv.progress.inWindow h0
    have hptr := inWindow_iff.1 hw
    rw [hi.wBeg, hi.wEnd] at hptr
    refine .inr (.inl fun hexists => habsent ⟨hw, ?_⟩)
    have := hexists s.eng.wPtr hptr.1 hptr.2
    simpa [inMem, hi.memMap] using this

/-- A turn of a transfer in flight. -/
theorem run_running {s₀ s : State} (h : Running s₀ s) : Run s₀ (advance s) := by
  have hs := h.issued.faults
  have hu := h.alike (alike_takeAgent s)
  cases ha : (takeAgent s).1 with
  | host =>
    rw [advance_of_turn_next hs (by rw [ha, agentStep, hostStep_poll hu.issued.program])]
    simp only [hostPoll, hu.busy]
    exact .running (hu.alike (alike_logReply _ _))
  | engine =>
    rcases engineStep_total hu.issued.inv with ⟨t, ht⟩ | ⟨ho, hf⟩
    · rw [advance_of_turn_next hs (by rw [ha, agentStep, ht])]
      rcases engineStep_move hu.issued.inv ht with ⟨-, rfl⟩ | hm
      · exact .running hu
      · exact (hu.move hm).elim .running .ended
    · rw [advance_of_turn_fault hs (by rw [ha, agentStep, hf])]
      exact .overrun (overrun_recordFault _ hs (hu.badWindow ho))
  | controller =>
    obtain ⟨t, ht⟩ := controllerStep_total hu.issued.inv
    rw [advance_of_turn_next hs (by rw [ha, agentStep, ht])]
    rcases controllerStep_move hu.issued.inv ht with hl | hm
    · exact .running (hu.alike hl)
    · exact (hu.move hm).elim .running .ended

/-- A turn of engine or controller before the command or after it. -/
theorem alike_advance {s : State} (h : Inv s) (hs : s.faults = []) (hb : s.status.busy = false)
    (ha : (takeAgent s).1 ≠ .host) : Alike s (advance s) := by
  have hu := alike_takeAgent s
  obtain ⟨t, ht, hl⟩ := idle_turn (hu.inv h) (by rw [hu.sameBlock.status, hb]) ha
  rw [advance_of_turn_next hs ht]
  exact hu.trans hl

/-- A run of a TRANSFER stays one, up to the point of R12. -/
theorem run_advance {s₀ s : State} {w : Word} (h₀ : Asked s₀ w) (h : Run s₀ s) (hobs : atObservation s = false) :
    Run s₀ (advance s) := by
  cases h with
  | waiting h =>
    by_cases ha : (takeAgent s).1 = .host
    · exact run_issue h₀ h ha
    · exact .waiting (h.trans (alike_advance (h.inv h₀.inv) (by rw [h.sameBlock.faults, h₀.faults])
        (by rw [h.sameBlock.status, h₀.idle]) ha))
  | running h => exact run_running h
  | ended h =>
    by_cases ha : (takeAgent s).1 = .host
    · have : atObservation s = true := atObservation_iff.2
        ⟨h.issued.faults, ha, h.idle, .poll, [], h.issued.program, rfl, by simp⟩
      rw [hobs] at this
      cases this
    · exact .ended (h.alike (alike_advance h.issued.inv h.issued.faults h.idle ha))
  | overrun h =>
    obtain ⟨⟨a, hf⟩, hbad⟩ := h
    have hadv : advance s = s := by simp [advance, step, hf]
    rw [hadv]
    exact .overrun ⟨⟨a, hf⟩, hbad⟩

/-- A run of a TRANSFER overruns a bad window, or shows an ended transfer where the host reads BUSY = 0. -/
def Shows (s₀ : State) (r : RunObservation) : Prop :=
  (r.faults = [] ∨ (∃ a, r.faults = [.bufferOverrun a]) ∧ BadWindow s₀) ∧
  ∀ o, r.seen = some o → r.faults = [] ∧ ∃ t, Ended s₀ t ∧ o = observe t

/-- Every run of a TRANSFER shows this, whatever the order of turns and the answers (R12, R84). -/
theorem observeRun_asked {s₀ : State} {w : Word} (h₀ : Asked s₀ w) (k : Nat) :
    Shows s₀ (observeRun k s₀) := by
  refine observeRun_induct (P := Run s₀) k (.waiting (.refl s₀)) (fun t h hobs => run_advance h₀ h hobs)
    (fun t h hobs => ?_) fun t h => ?_
  · obtain ⟨hs, -, hb, a, rest, hp, hreads, -⟩ := atObservation_iff.1 hobs
    refine ⟨.inl hs, ?_⟩
    rintro o ⟨⟩
    refine ⟨hs, t, ?_, rfl⟩
    cases h with
    | waiting h =>
      obtain ⟨_, _, _, _, rfl, -, -⟩ := h
      have hp' := h₀.program.symm.trans hp
      simp only [List.cons.injEq] at hp'
      simp [← hp'.1, HostAccess.readsStatus] at hreads
    | running h => simp [h.busy] at hb
    | ended h => exact h
    | overrun h =>
      obtain ⟨⟨a, hf⟩, -⟩ := h
      simp [hs] at hf
  · refine ⟨?_, nofun⟩
    cases h with
    | waiting h => exact .inl (h.sameBlock.faults.trans h₀.faults)
    | running h => exact .inl h.issued.faults
    | ended h => exact .inl h.issued.faults
    | overrun h => exact .inr h

end Sys2Proof.Machine
end

section
/-! What every run of a TRANSFER shows (R12, R84, R87). -/

namespace Sys2Proof.Machine

/-! ### STATUS, as a word -/

theorem flagBit_getLsbD (v : Bool) (n i : Nat) (hi : i < 32) : (flagBit v n).getLsbD i = (v && decide (n = i)) := by
  cases v
  · simp [flagBit]
  · simp [flagBit, hi, eq_comm]

/-- R22: the bits of STATUS that R84 speaks of. -/
theorem statusWord_bits (s : State) :
    (statusWord s).getLsbD 0 = s.status.busy ∧ (statusWord s).getLsbD 1 = s.status.fail ∧
    (statusWord s).getLsbD 3 = heldFlag s ∧ (statusWord s).getLsbD 4 = tseFlag s := by
  simp (disch := decide) only [statusWord, BitVec.getLsbD_or, flagBit_getLsbD]
  simp

/-- R22: STATUS as a number. -/
theorem statusWord_toNat (s : State) :
    (statusWord s).toNat = s.status.busy.toNat + 2 * s.status.fail.toNat + 4 * s.status.cfg.toNat +
      8 * (heldFlag s).toNat + 16 * (tseFlag s).toNat := by
  have table : ∀ busy fail cfg held tse : Bool,
      (flagBit busy 0 ||| flagBit fail 1 ||| flagBit cfg 2 ||| flagBit held 3 ||| flagBit tse 4).toNat =
        busy.toNat + 2 * fail.toNat + 4 * cfg.toNat + 8 * held.toNat + 16 * tse.toNat := by decide
  exact table _ _ _ _ _

/-! ### Responsive peripherals -/

theorem Next.unique {α : Type} {l : List α} {a b : α} (h : Next l a) (hb : l.head? = some b) : a = b :=
  (h b hb).symm

/-- Every byte of a write ACKed. -/
theorem not_unresponsive_write {s₀ : State} {as : List TxAnswer} (hdir : slaDir s₀.req.sla = false)
    (htx : s₀.env.tx = List.replicate (s₀.req.len.toNat + 1) (.reply .ack) ++ as) : ¬Unresponsive s₀ := by
  rintro (⟨c, a, -, hc, ha, hn⟩ | ⟨hrd, -⟩)
  · refine ha (hn.unique ?_)
    rw [List.head?_drop, htx, List.getElem?_append_left (by simp; omega), List.getElem?_replicate_of_lt (by omega)]
  · rw [hdir] at hrd; cases hrd

/-- The address of a read ACKed, and a byte for each receive. -/
theorem not_unresponsive_read {s₀ : State} {as : List TxAnswer} {bytes : List Byte} {rs : List RxAnswer}
    (hdir : slaDir s₀.req.sla = true) (hlen : bytes.length = s₀.req.len.toNat) (hpos : 1 ≤ s₀.req.len.toNat)
    (htx : s₀.env.tx = .reply .ack :: as) (hrx : s₀.env.rx = bytes.map RxAnswer.byte ++ rs) : ¬Unresponsive s₀ := by
  rintro (⟨c, a, hc, -, ha, hn⟩ | ⟨-, c, hc, hn⟩)
  · rw [hc hdir] at hn
    exact ha (hn.unique (by simp [htx]))
  · have hlt : c < bytes.length := by omega
    have := hn.unique (b := .byte bytes[c]) (by
      rw [List.head?_drop, hrx, List.getElem?_append_left (by simpa using hlt)]
      simp [hlt])
    cases this

/-- The bytes that arrived are those the environment gave. -/
theorem Answered.eq {s₀ : State} {bytes got : List Byte} {rs : List RxAnswer}
    (hrx : s₀.env.rx = bytes.map RxAnswer.byte ++ rs) (hlen : got.length = bytes.length) (h : Answered s₀ got) :
    got = bytes := by
  refine List.ext_getElem hlen fun i h1 h2 => ?_
  have := (h i got[i] (List.getElem?_eq_getElem h1)).unique (b := .byte bytes[i]) (by
    rw [List.head?_drop, hrx, List.getElem?_append_left (by simpa using h2)]
    simp [h2])
  injection this

theorem not_badWindow {s₀ : State} (hlim : s₀.req.buf.toNat + s₀.req.len.toNat < 2 ^ 32)
    (hw : windowExists s₀ s₀.req.buf.toNat s₀.req.len.toNat)
    (hlen : slaDir s₀.req.sla = true → 1 ≤ s₀.req.len.toNat) : ¬BadWindow s₀ := by
  rintro (h | h | ⟨hdir, h0⟩)
  · omega
  · exact h hw
  · have := hlen hdir
    omega

/-- What a responsive peripheral's whole transfer shows of STATUS and TRACE. -/
theorem Ended.whole {s₀ t : State} (h : Ended s₀ t) (hr : ¬Unresponsive s₀) :
    Complete s₀ t (stopEvents s₀.req.tstop) ∧
      (statusWord t).toNat = (if s₀.status.cfg then 4 else 0) + (if s₀.req.tstop then 16 else 8) := by
  obtain ⟨hi, hb, ⟨hf, hc, hts, hown⟩ | ⟨-, ⟨hun, -⟩, -⟩⟩ := h
  · refine ⟨hc, ?_⟩
    rw [statusWord_toNat, hb, hf, hi.cfg, heldFlag, tseFlag, hts, hown]
    cases s₀.status.cfg <;> cases s₀.req.tstop <;> rfl
  · exact absurd hun hr

/-- Settles O58: every answer is an ACK and every byte is there, so each run shows a whole write. -/
theorem writeTransferObserved : Obligations.WriteTransferObserved := by
  intro s w as n k hs hb hinv hen hp hw hn hlim hexists hdir htx
  subst hn
  obtain ⟨hfaults, hseen⟩ := observeRun_asked ⟨hs, hb, hinv, hp, hw⟩ k
  have hwin := not_badWindow hlim hexists (by simp [hdir])
  refine ⟨hfaults.resolve_right fun h => hwin h.2, fun o ho => ?_⟩
  obtain ⟨-, t, hend, rfl⟩ := hseen o ho
  obtain ⟨⟨data, htr, hd⟩, hst⟩ := hend.whole (not_unresponsive_write hdir htx)
  rcases hd with ⟨-, rfl, hmem⟩ | ⟨hrd, -⟩
  · exact ⟨by simp [observe, htr, openEvents], hmem, hst⟩
  · rw [hdir] at hrd; cases hrd

/-- Settles O59: the address is ACKed and every receive answered, so each run shows a whole read. -/
theorem readTransferObserved : Obligations.ReadTransferObserved := by
  intro s w as bytes rs n k hs hb hinv hen hp hw hlen hpos hn hlim hexists hdir htx hrx
  subst hn
  obtain ⟨hfaults, hseen⟩ := observeRun_asked ⟨hs, hb, hinv, hp, hw⟩ k
  have hwin := not_badWindow hlim hexists (fun _ => hpos)
  refine ⟨hfaults.resolve_right fun h => hwin h.2, fun o ho => ?_⟩
  obtain ⟨-, t, hend, rfl⟩ := hseen o ho
  obtain ⟨⟨data, htr, hd⟩, hst⟩ := hend.whole (not_unresponsive_read hdir hlen hpos htx hrx)
  rcases hd with ⟨hwr, -⟩ | ⟨-, got, hgot, rfl, hfill, hans⟩
  · rw [hdir] at hwr; cases hwr
  · obtain rfl := hans.eq hrx (hgot.trans hlen.symm)
    exact ⟨by simp [observe, htr, openEvents], hfill.stored, hfill.other, hst⟩

/-! ### The result contract -/

theorem isFailure_startEvent (o : Own) : (startEvent o).isFailure = false := by cases o <;> rfl

/-- The events of a whole transfer's bytes are data events that are no failures, one for each byte. -/
theorem Moved.data {s₀ : State} {m : Memory} {data : List BusEvent} (h : Moved s₀ m data) :
    data.length = s₀.req.len.toNat ∧ ∀ e ∈ data, e.isFailure = false ∧ e.isData = true := by
  rcases h with ⟨-, rfl, -⟩ | ⟨-, bytes, hl, rfl, -, -⟩
  · refine ⟨by simp [writeEvents], fun e he => ?_⟩
    obtain ⟨i, -, rfl⟩ := List.mem_map.1 he
    exact ⟨rfl, rfl⟩
  · refine ⟨by simp [readEvents, hl], fun e he => ?_⟩
    obtain ⟨i, hi, rfl⟩ := List.mem_mapIdx.1 he
    exact ⟨rfl, rfl⟩

/-- R114: only the last byte of a transfer can be a received one that is NACKed. -/
theorem Moved.nack_last {s₀ : State} {m : Memory} {data : List BusEvent} (h : Moved s₀ m data) {i : Nat} {b : Byte}
    (hi : data[i]? = some (.rxd b .nack)) : i + 1 = data.length := by
  rcases h with ⟨-, rfl, -⟩ | ⟨-, bytes, hl, rfl, -, -⟩
  · simp [writeEvents] at hi
  · obtain ⟨c, -, hc⟩ : ∃ c, bytes[i]? = some c ∧ BusEvent.rxd c (readAck bytes.length i) = .rxd b .nack := by
      simpa [readEvents] using hi
    injection hc with _ hack
    have hlast : i + 1 = bytes.length := by
      by_contra hne
      simp [readAck_of_ne hne] at hack
    simp [readEvents, hlast]

/-- Only the last of a whole transfer's bytes can be a received one that is NACKed, so its events after that are those of
its end. -/
theorem Moved.after_nack {s₀ : State} {m : Memory} {data close pre post : List BusEvent} {b : Byte} (h : Moved s₀ m data)
    (hclose : ∀ e ∈ close, e = .stop) (hpart : openEvents s₀ ++ data ++ close = pre ++ [.rxd b .nack] ++ post) :
    post = close := by
  have hat : (openEvents s₀ ++ data ++ close)[pre.length]? = some (.rxd b .nack) := by simp [hpart]
  suffices hlen : (openEvents s₀ ++ data).length = (pre ++ [BusEvent.rxd b .nack]).length from
    (List.append_inj_right hpart hlen).symm
  have hopen : (openEvents s₀).length = 2 := rfl
  by_cases h1 : pre.length < (openEvents s₀ ++ data).length
  · rw [List.getElem?_append_left h1] at hat
    by_cases h2 : pre.length < (openEvents s₀).length
    · rw [List.getElem?_append_left h2] at hat
      have hmem := List.mem_of_getElem? hat
      cases ho : s₀.bus.own <;> simp [openEvents, startEvent, ho] at hmem
    · rw [List.getElem?_append_right (by omega)] at hat
      have := h.nack_last hat
      simp [hopen] at h2 ⊢
      omega
  · rw [List.getElem?_append_right (by omega)] at hat
    cases hclose _ (List.mem_of_getElem? hat)

/-- R84: the events of a whole transfer. -/
theorem Complete.contract {s₀ t : State} {ts : Bool} (h : Complete s₀ t (stopEvents ts)) :
    ∃ part, t.trace = s₀.trace ++ part ∧ (∀ e ∈ part, e.isFailure = false) ∧
      (∀ pre b post, part = pre ++ [.rxd b .nack] ++ post → post = stopEvents ts) ∧
      (part.filter BusEvent.isData).length = s₀.req.len.toNat := by
  obtain ⟨data, htr, hd⟩ := h
  obtain ⟨hlen, hdata⟩ := hd.data
  have hstop : ∀ e ∈ stopEvents ts, e = .stop := by cases ts <;> simp [stopEvents]
  refine ⟨_, htr, fun e he => ?_, fun pre b post hpart => ?_, ?_⟩
  · simp only [openEvents, List.mem_append, List.mem_cons, List.not_mem_nil, or_false] at he
    rcases he with ((rfl | rfl) | he) | he
    · exact isFailure_startEvent _
    · rfl
    · exact (hdata e he).1
    · rw [hstop e he]; rfl
  · exact hd.after_nack hstop hpart
  · have h1 : (openEvents s₀).filter BusEvent.isData = [] := by
      cases ho : s₀.bus.own <;> simp [openEvents, startEvent, BusEvent.isData, ho]
    have h2 : data.filter BusEvent.isData = data := List.filter_eq_self.2 fun e he => (hdata e he).2
    have h3 : (stopEvents ts).filter BusEvent.isData = [] := by cases ts <;> rfl
    rw [List.filter_append, List.filter_append, h1, h2, h3]
    simpa using hlen

/-- Settles O60: an ended transfer is whole, or has met a failure. -/
theorem transferContractObserved : Obligations.TransferContractObserved := by
  intro s w k hs hb hinv hp hw
  obtain ⟨hfaults, hseen⟩ := observeRun_asked ⟨hs, hb, hinv, hp, hw⟩ k
  refine ⟨fun f hf => ?_, fun o ho => ?_⟩
  · rcases hfaults with h0 | ⟨⟨a, ha⟩, -⟩
    · simp [h0] at hf
    · exact ⟨a, by simpa [ha] using hf⟩
  · obtain ⟨hnone, t, ⟨hi, hidle, hend⟩, rfl⟩ := hseen o ho
    obtain ⟨hbusy, hfail, hheld, htse⟩ := statusWord_bits t
    refine ⟨hnone, hbusy.trans hidle, ?_⟩
    simp only [observe, hfail, hheld, htse, heldFlag, tseFlag]
    rcases hend with ⟨hf, hc, -, hown⟩ | ⟨hf, ⟨-, part, htr, hpart⟩, hts, hown⟩
    · obtain ⟨part, htr, hok, hlast, hcount⟩ := hc.contract
      refine ⟨part, htr, fun _ => ⟨hok, hlast, hcount, ?_⟩, by simp [hf]⟩
      rw [hown]
      cases s.req.tstop <;> simp
    · exact ⟨part, htr, by simp [hf], fun _ => ⟨hpart, hts, by simp [hown]⟩⟩

end Sys2Proof.Machine
end

section
/-! The register window: which access reaches which register (R14, R15), and what the host's turn does there (R23, R54, R73),
with the words of the registers bit by bit (R22, R31). -/

namespace Sys2Proof.Machine

/-! ### Registers and their offsets -/

theorem Reg.ofOffset_eq_some {off : Nat} {r : Reg} : Reg.ofOffset off = some r ↔ off = r.offset := by
  constructor
  · intro h
    rw [ofOffset] at h
    have hr := List.find?_some h
    exact (beq_iff_eq.1 hr).symm
  · rintro rfl
    cases r <;> rfl

/-- R15: an access reaches a register exactly where it is a word at the register's offset. -/
theorem accessedReg_eq_some {w : AccessWidth} {off : Nat} {r : Reg} :
    accessedReg w off = some r ↔ w = .word ∧ off = r.offset := by
  unfold accessedReg
  split <;> simp [Reg.ofOffset_eq_some, *]

@[simp] theorem accessedReg_offset (r : Reg) : accessedReg .word r.offset = some r :=
  accessedReg_eq_some.2 ⟨rfl, rfl⟩

/-- R14: the offsets are the multiples of 4 up to 0x3C. -/
theorem Reg.offset_aligned (r : Reg) : r.offset % 4 = 0 ∧ r.offset ≤ 0x3C := by
  cases r <;> decide

/-- R14: CMD alone is write-only. -/
theorem Reg.readable_iff {r : Reg} : r.readable = true ↔ r ≠ .cmd := by
  cases r <;> decide

/-- R14: CMD is the register at offset 0. -/
theorem Reg.offset_eq_zero_iff {r : Reg} : r.offset = 0 ↔ r = .cmd := by
  cases r <;> decide

/-- R14: all registers up to 0x1C but STATUS can be written. -/
theorem Reg.writable_iff {r : Reg} : r.writable = true ↔ r.offset ≠ 0x04 ∧ r.offset ≤ 0x1C := by
  cases r <;> decide

/-- R14: the six RW registers, by their offsets. -/
theorem exists_requestReg {off : Nat}
    (h : off = 0x08 ∨ off = 0x0C ∨ off = 0x10 ∨ off = 0x14 ∨ off = 0x18 ∨ off = 0x1C) :
    ∃ r : Reg, off = r.offset ∧ r.writable = true ∧ r ≠ .cmd := by
  rcases h with rfl | rfl | rfl | rfl | rfl | rfl
  · exact ⟨.sla, rfl, rfl, nofun⟩
  · exact ⟨.buf, rfl, rfl, nofun⟩
  · exact ⟨.len, rfl, rfl, nofun⟩
  · exact ⟨.opt, rfl, rfl, nofun⟩
  · exact ⟨.pclk, rfl, rfl, nofun⟩
  · exact ⟨.busf, rfl, rfl, nofun⟩

/-! ### The host's accesses to the window -/

/-- The host's turn is its next access. -/
theorem hostStep_of_program {s : State} {a : HostAccess} {rest : List HostAccess} (h : s.host.program = a :: rest) :
    hostStep s = hostAccess a s := by
  rw [hostStep, h]

/-- R15: a read that reaches no register with an R in its access column is refused. -/
theorem hostRead_of_not_readable {w : AccessWidth} {off : Nat} (s : State)
    (h : ∀ r, accessedReg w off = some r → r.readable = false) :
    hostRead w off s = .fault (.badRegisterAccess off) := by
  unfold hostRead
  split
  · rfl
  next r hr => simp [h r hr]

/-- R15: a write that reaches no register with a W in its access column is refused, before BUSY is looked at. -/
theorem hostWrite_of_not_writable {w : AccessWidth} {off : Nat} (v : Word) (s : State)
    (h : ∀ r, accessedReg w off = some r → r.writable = false) :
    hostWrite w off v s = .fault (.badRegisterAccess off) := by
  unfold hostWrite
  split
  · rfl
  next r hr => simp [h r hr]

/-- R15, R54: a word read gives the register's word to the host. -/
theorem hostStep_read {s : State} {r : Reg} {rest : List HostAccess} (hp : s.host.program = .read .word r.offset :: rest)
    (hr : r ≠ .cmd) :
    hostStep s = .next { s with host := ⟨rest, s.host.log ++ [.reg r.offset (readReg r s)]⟩ } := by
  rw [hostStep_of_program hp]
  simp [hostAccess, hostRead, Reg.readable_iff.2 hr, logReply, popHost, hp]

/-- R73: a poll reads STATUS, and is over when BUSY = 0. -/
theorem hostStep_of_poll {s : State} {rest : List HostAccess} (hp : s.host.program = .poll :: rest) :
    hostStep s = .next { s with
      host := ⟨if s.status.busy then .poll :: rest else rest, s.host.log ++ [.reg 0x04 (readReg .status s)]⟩ } := by
  rw [hostStep_of_program hp]
  cases hb : s.status.busy <;> simp [hostAccess, hostPoll, hb, logReply, popHost, hp, readReg, Reg.offset]

/-- R15, R23: a word write to an RW register is a host violation while BUSY = 1, and is stored while BUSY = 0. -/
theorem hostStep_requestWrite {s : State} {r : Reg} {v : Word} {rest : List HostAccess}
    (hp : s.host.program = .write .word r.offset v :: rest) (hw : r.writable = true) (hr : r ≠ .cmd) :
    hostStep s =
      if s.status.busy then .fault (.hostBusyViolation r.offset)
      else .next { s with req := writeReq r v s.req, host := { s.host with program := rest } } := by
  rw [hostStep_of_program hp]
  simp [hostAccess, hostWrite, hw, hr, popHost, hp]

/-- Settles O6: a read and a poll move the host's program and log only. -/
theorem registerReadsOnlyRead : Obligations.RegisterReadsOnlyRead :=
  fun _ _ => ⟨fun _ hp hr => hostStep_read hp hr, hostStep_of_poll⟩

/-- Settles O8: no such access reaches a register that has its direction. -/
theorem badRegisterAccessStops : Obligations.BadRegisterAccessStops := by
  intro s w off v rest
  constructor <;> intro hp hbad <;> rw [hostStep_of_program hp]
  · refine hostRead_of_not_readable s fun r hr => ?_
    obtain ⟨rfl, rfl⟩ := accessedReg_eq_some.1 hr
    have hcmd : r = .cmd := by
      rw [← Reg.offset_eq_zero_iff]
      have := r.offset_aligned
      simp [this] at hbad
      omega
    rw [hcmd]; rfl
  · refine hostWrite_of_not_writable v s fun r hr => ?_
    obtain ⟨rfl, rfl⟩ := accessedReg_eq_some.1 hr
    rw [← Bool.not_eq_true, Reg.writable_iff]
    have := r.offset_aligned
    simp [this] at hbad
    omega

/-- R19: OPT's one used bit is the parity of the word. -/
theorem bit_zero_eq (v : Word) : v[0] = decide (v.toNat % 2 = 1) := by
  rw [BitVec.getElem_eq_testBit_toNat, Nat.testBit_zero]

/-- Settles O9: of the request registers, the store writes the one at the offset, in its used bits. -/
theorem requestWriteStores : Obligations.RequestWriteStores := by
  intro s off v rest hp hb hoff
  obtain ⟨r, rfl, hw, hr⟩ := exists_requestReg hoff
  refine ⟨writeReq r v s.req, by rw [hostStep_requestWrite hp hw hr, hb]; rfl, ?_⟩
  cases r with
  | sla | buf | len | opt | pclk | busf => simp [writeReq, Reg.offset, bit_zero_eq]
  | cmd => exact absurd rfl hr
  | _ => cases hw

/-- Settles O10: the write stops at BUSY, and reads are as they are on an idle block. -/
theorem busyRequestWriteStops : Obligations.BusyRequestWriteStops := by
  intro s off v rest hb
  refine ⟨fun hp hoff => ?_, fun r hp hr => ⟨_, hostStep_read hp hr⟩, fun hp => ⟨readReg .status s, ?_⟩⟩
  · obtain ⟨r, rfl, hw, hr⟩ := exists_requestReg hoff
    rw [hostStep_requestWrite hp hw hr, if_pos hb]
  · rw [hostStep_of_poll hp, if_pos hb, ← hp]

/-! ### The words of the registers -/

/-- A flag's word has its bit and no other, above bit 31 too. -/
theorem flagBit_bit (v : Bool) {n : Nat} (hn : n < 32) (i : Nat) :
    (flagBit v n).getLsbD i = (i == n && v) := by
  by_cases hi : i < 32
  · simp only [flagBit_getLsbD v n i hi, Bool.and_comm, beq_eq_decide, eq_comm (a := i)]
  · rw [BitVec.getLsbD_of_ge _ _ (by omega), beq_eq_decide, decide_eq_false (by omega), Bool.false_and]

/-- R22: STATUS at every bit. -/
theorem statusWord_bit (s : State) (n : Nat) :
    (statusWord s).getLsbD n =
      ((n == 0 && s.status.busy) || (n == 1 && s.status.fail) || (n == 2 && s.status.cfg) ||
        (n == 3 && heldFlag s) || (n == 4 && tseFlag s)) := by
  simp (disch := decide) only [statusWord, BitVec.getLsbD_or, flagBit_bit]

/-- R31: CON at every bit. -/
theorem Con.word_bit (c : Con) (n : Nat) :
    c.word.getLsbD n =
      ((n == 2 && c.aa) || (n == 3 && c.si) || (n == 4 && c.sto) || (n == 5 && c.sta) || (n == 6 && c.en)) := by
  simp (disch := decide) only [Con.word, BitVec.getLsbD_or, flagBit_bit]

/-- R36: STAT as it is read. -/
theorem statView_toNat (s : State) : (statView s).toNat = if s.ctl.con.si then s.ctl.stat.toNat else 0xF8 := by
  unfold statView
  split <;> rfl

/-- Settles O7: STATUS and CON by their flags, the narrow registers zero-extended. -/
theorem statusWordsBitByBit : Obligations.StatusWordsBitByBit := by
  intro s n
  refine ⟨statusWord_bit s n, Con.word_bit s.ctl.con n, ?_, ?_, ?_, ?_, ?_, ?_, ?_, rfl, rfl, rfl, rfl, rfl, rfl⟩
  · exact (BitVec.toNat_setWidth_of_le (by decide)).trans (statView_toNat s)
  · simp only [readReg]
    cases s.req.tstop <;> rfl
  all_goals exact BitVec.toNat_setWidth_of_le (by decide)

end Sys2Proof.Machine
end

section
/-! What each turn leaves alone: a command, a phase handler, a turn of the host, the engine and the controller (R29, R54,
R94, R116). -/

namespace Sys2Proof.Machine

/-! ### Commands -/

theorem cmdOp_toNat (w : Word) : (cmdOp w).toNat = w.toNat % 4 := by
  simp [cmdOp]

/-- R76: a command that answers a next state is, by its `op`, a NOP, a CONFIGURE on a free bus or a TRANSFER. -/
theorem exec_command_next {w : Word} {s t : State} (h : exec (decodeCmd w) s = .next t) :
    w.toNat % 4 = 0 ∧ t = s ∨
    (w.toNat % 4 = 1 ∧ s.bus.own = .free ∧ ∃ d, t = issueTransfer warmupOperands true (configureController d s)) ∨
    (w.toNat % 4 = 2 ∧ t = issueTransfer (transferOperands s) false s) := by
  rw [decodeCmd, cmdOp_toNat] at h
  split at h
  next hop => exact .inl ⟨hop, (execNop_next (x := cmdIgnored w) h).2⟩
  next hop =>
    obtain ⟨-, hown, d, -, rfl⟩ := execConfigure_next (x := cmdIgnored w) h
    exact .inr (.inl ⟨hop, hown, d, rfl⟩)
  next hop => exact .inr (.inr ⟨hop, (execTransfer_next (x := cmdIgnored w) h).2.2⟩)
  next => exact absurd h execCmdReserved_ne_next

/-- Settles O21: by the command's `op`, from the registers that its issue step loads. -/
theorem commandFrame : Obligations.CommandFrame := by
  intro w s t h
  rcases exec_command_next h with ⟨-, rfl⟩ | ⟨hop, -, d, rfl⟩ | ⟨hop, rfl⟩
  · simp
  · simp [hop]
  · simp [hop]

/-! ### Phase handlers -/

/-- R96 to R106: what a phase handler can leave, by its phase. -/
theorem exec_phase_next {c : Byte} {i : Instr} {s t : State} (hd : decodePhase c = .instr i) (h : exec i s = .next t) :
    ((i = .started ∨ i = .repeatStarted) ∧ t = placeAddress s) ∨
    t = epilogue .complete (setAct actNone s) ∨
    (∃ b, t = epilogue .proceed (setAct actTx (countByte (setDat b s)))) ∨
    t = failTransfer s ∨
    (i = .addressReadAcked ∧ t = epilogue .proceed (setAct actRx (setAa true s))) ∨
    ((i = .dataReadAcked ∨ i = .dataReadNacked) ∧
      t = afterStore { s with mem := Memory.write s.mem s.eng.wPtr.toNat s.ctl.dat }) := by
  rcases exec_phase_cases hd s with ⟨hc, he⟩ | ⟨-, he⟩ | ⟨-, he⟩ | ⟨hc, he⟩ | ⟨hc, he⟩ <;> rw [he] at h
  · cases h
    refine .inl ⟨?_, rfl⟩
    rcases hc with rfl | rfl <;> simp_all
  · rcases transmitNext_next h with ⟨-, rfl⟩ | ⟨-, -, -, rfl⟩
    · exact .inr (.inl rfl)
    · exact .inr (.inr (.inl ⟨_, rfl⟩))
  · cases h
    exact .inr (.inr (.inr (.inl rfl)))
  · cases h
    exact .inr (.inr (.inr (.inr (.inl ⟨by simp_all, rfl⟩))))
  · obtain ⟨-, -, rfl⟩ := storeReceived_next h
    refine .inr (.inr (.inr (.inr (.inr ⟨?_, rfl⟩))))
    rcases hc with rfl | rfl <;> simp_all

/-- What every phase handler leaves alone (R29, R46, R94); SI is 0 after it. -/
structure PhaseFrame (s t : State) : Prop where
  req : t.req = s.req
  status : t.status = s.status
  bus : t.bus = s.bus
  trace : t.trace = s.trace
  faults : t.faults = s.faults
  memMap : t.memMap = s.memMap
  host : t.host = s.host
  env : t.env = s.env
  schedule : t.schedule = s.schedule
  wSla : t.eng.wSla = s.eng.wSla
  wBeg : t.eng.wBeg = s.eng.wBeg
  wEnd : t.eng.wEnd = s.eng.wEnd
  wWarm : t.eng.wWarm = s.eng.wWarm
  sclh : t.ctl.sclh = s.ctl.sclh
  scll : t.ctl.scll = s.ctl.scll
  en : t.ctl.con.en = s.ctl.con.en
  sto : t.ctl.con.sto = s.ctl.con.sto
  si : t.ctl.con.si = false
  stat : t.ctl.stat = noPhase
  next : t.eng.es = .wait ∨ t.eng.es = .term

theorem phaseFrame_epilogue (o : HandlerOutcome) (s : State) : PhaseFrame s (epilogue o s) := by
  constructor
  case next => cases o <;> simp [HandlerOutcome.next]
  all_goals rfl

theorem phaseFrame_afterStore (s : State) : PhaseFrame s (afterStore s) := by
  rcases afterStore_cases s with ⟨-, ht⟩ | ⟨-, ht⟩ | ⟨-, -, ht⟩ <;> rw [ht]
  · exact { phaseFrame_epilogue .complete s with }
  · exact { phaseFrame_epilogue .proceed s with }
  · exact { phaseFrame_epilogue .proceed s with }

theorem exec_phase_frame {c : Byte} {i : Instr} {s t : State} (hd : decodePhase c = .instr i) (h : exec i s = .next t) :
    PhaseFrame s t := by
  rcases exec_phase_next hd h with ⟨-, rfl⟩ | rfl | ⟨b, rfl⟩ | rfl | ⟨-, rfl⟩ | ⟨-, rfl⟩
  · exact { phaseFrame_epilogue .proceed s with }
  · exact { phaseFrame_epilogue .complete s with }
  · exact { phaseFrame_epilogue .proceed s with }
  · exact { phaseFrame_epilogue .failed s with }
  · exact { phaseFrame_epilogue .proceed s with }
  · exact { phaseFrame_afterStore { s with mem := Memory.write s.mem s.eng.wPtr.toNat s.ctl.dat } with }

/-- R105: what follows a store writes no byte and leaves STA. -/
theorem afterStore_keeps (s : State) : (afterStore s).mem = s.mem ∧ (afterStore s).ctl.con.sta = s.ctl.con.sta := by
  rcases afterStore_cases s with ⟨-, ht⟩ | ⟨-, ht⟩ | ⟨-, -, ht⟩ <;> rw [ht] <;> exact ⟨rfl, rfl⟩

/-- R34: AA changes in the three read phases only. -/
theorem exec_phase_aa {c : Byte} {i : Instr} {s t : State} (hd : decodePhase c = .instr i) (h : exec i s = .next t)
    (h1 : i ≠ .addressReadAcked) (h2 : i ≠ .dataReadAcked) (h3 : i ≠ .dataReadNacked) :
    t.ctl.con.aa = s.ctl.con.aa := by
  rcases exec_phase_next hd h with ⟨-, rfl⟩ | rfl | ⟨b, rfl⟩ | rfl | ⟨hi, -⟩ | ⟨hi, -⟩
  · rfl
  · rfl
  · rfl
  · rfl
  · exact absurd hi h1
  · exact absurd hi (not_or.2 ⟨h2, h3⟩)

/-- R33: STA changes in the two start phases only. -/
theorem exec_phase_sta {c : Byte} {i : Instr} {s t : State} (hd : decodePhase c = .instr i) (h : exec i s = .next t)
    (h1 : i ≠ .started) (h2 : i ≠ .repeatStarted) : t.ctl.con.sta = s.ctl.con.sta := by
  rcases exec_phase_next hd h with ⟨hi, -⟩ | rfl | ⟨b, rfl⟩ | rfl | ⟨-, rfl⟩ | ⟨-, rfl⟩
  · exact absurd hi (not_or.2 ⟨h1, h2⟩)
  · rfl
  · rfl
  · rfl
  · rfl
  · exact (afterStore_keeps _).2

/-- R46: only the two data-read phases write buffer memory, and only at W_PTR. -/
theorem exec_phase_mem {c : Byte} {i : Instr} {s t : State} (hd : decodePhase c = .instr i) (h : exec i s = .next t)
    (a : Nat) (ha : i = .dataReadAcked ∨ i = .dataReadNacked → a ≠ s.eng.wPtr.toNat) :
    Memory.read t.mem a = Memory.read s.mem a := by
  rcases exec_phase_next hd h with ⟨-, rfl⟩ | rfl | ⟨b, rfl⟩ | rfl | ⟨-, rfl⟩ | ⟨hi, rfl⟩
  · rfl
  · rfl
  · rfl
  · rfl
  · rfl
  · rw [(afterStore_keeps _).1]
    exact Memory.read_write_other _ _ _ (ha hi)

/-- Settles O28: the frame that all handlers share, then AA, STA and memory, which some phases write. -/
theorem phaseHandlerFrame : Obligations.PhaseHandlerFrame := by
  intro c i s t hd h
  have hf := exec_phase_frame hd h
  exact ⟨hf.req, hf.status, hf.bus, hf.trace, hf.faults, hf.memMap, hf.host, hf.env, hf.schedule, hf.wSla, hf.wBeg,
    hf.wEnd, hf.wWarm, hf.sclh, hf.scll, hf.en, hf.sto, hf.si, exec_phase_aa hd h, exec_phase_sta hd h,
    exec_phase_mem hd h⟩

/-! ### The host's turn -/

/-- What a turn of the host that writes no command leaves alone (R19, R29, R54). -/
structure HostFrame (s t : State) : Prop extends SameBlock s t where
  trace : t.trace = s.trace
  env : t.env = s.env

/-- R54: it writes the request registers, buffer memory and the host's own program and log. -/
theorem hostFrame_with (s : State) (q : Request) (m : Memory) (g : HostAgent) :
    HostFrame s { s with req := q, mem := m, host := g } := ⟨⟨rfl, rfl, rfl, rfl, rfl⟩, rfl, rfl⟩

theorem hostBuffer_frame {a : Word} {s t : State} {k : State → State} (hk : HostFrame s (k (popHost s)))
    (h : hostBuffer a s k = .next t) : HostFrame s t := by
  unfold hostBuffer at h
  split at h
  · cases h
  · split at h
    · cases h; exact hk
    · cases h

theorem hostRead_frame {w : AccessWidth} {off : Nat} {s t : State} (h : hostRead w off s = .next t) : HostFrame s t := by
  unfold hostRead at h
  split at h
  · cases h
  · split at h
    · cases h; exact hostFrame_with s _ _ _
    · cases h

theorem hostWrite_frame {w : AccessWidth} {off : Nat} {v : Word} {s t : State} (h : hostWrite w off v s = .next t) :
    w = .word ∧ off = 0x00 ∨ HostFrame s t := by
  unfold hostWrite at h
  split at h
  · cases h
  next r hr =>
    obtain ⟨rfl, rfl⟩ := accessedReg_eq_some.1 hr
    split at h
    · cases h
    · split at h
      next hcmd => exact .inl ⟨rfl, Reg.offset_eq_zero_iff.2 hcmd⟩
      next =>
        split at h
        · cases h
        · cases h; exact .inr (hostFrame_with s _ _ _)

/-- R29, R54, R76: a turn of the host is a command, or leaves the block's registers alone. -/
theorem hostStep_command_or_frame {s t : State} (h : hostStep s = .next t) :
    (∃ w rest, s.host.program = .write .word 0x00 w :: rest ∧ exec (decodeCmd w) (popHost s) = .next t) ∨
    HostFrame s t := by
  cases hp : s.host.program with
  | nil =>
    rw [hostStep, hp] at h
    cases h
    exact .inr (hostFrame_with s s.req s.mem s.host)
  | cons a rest =>
    have ha := h
    rw [hostStep_of_program hp] at ha
    cases a with
    | read w off => exact .inr (hostRead_frame ha)
    | write w off v =>
      rcases hostWrite_frame ha with ⟨rfl, rfl⟩ | hf
      · rw [hostStep_command hp] at h
        exact .inl ⟨v, rest, rfl, h⟩
      · exact .inr hf
    | poll =>
      cases ha
      refine .inr ?_
      unfold hostPoll
      cases s.status.busy <;> exact hostFrame_with s _ _ _
    | bufRead a =>
      rw [hostAccess] at ha
      exact .inr (hostBuffer_frame (hostFrame_with s _ _ _) ha)
    | bufWrite a v =>
      rw [hostAccess] at ha
      exact .inr (hostBuffer_frame (hostFrame_with s _ _ _) ha)

/-! ### The engine's turn -/

/-- What a turn of the engine leaves alone (R29). -/
structure EngineFrame (s t : State) : Prop where
  req : t.req = s.req
  bus : t.bus = s.bus
  trace : t.trace = s.trace
  faults : t.faults = s.faults
  memMap : t.memMap = s.memMap
  host : t.host = s.host
  env : t.env = s.env
  schedule : t.schedule = s.schedule

theorem engineFrame_finish (s : State) : EngineFrame s (finish s) := by
  rcases finish_cases s with ⟨-, ht⟩ | ⟨-, ht⟩ <;> rw [ht] <;> constructor <;> rfl

/-- R108: TERM asks for the trailing stop, or finishes. -/
theorem termStep_cases (s : State) :
    s.eng.wTstop = true ∧ termStep s = setEs .stopWait (setSto true s) ∨
    s.eng.wTstop = false ∧ termStep s = finish s := by
  unfold termStep
  cases s.eng.wTstop <;> simp

theorem engineStep_frame {s t : State} (h : engineStep s = .next t) : EngineFrame s t := by
  rcases engineStep_next h with ⟨-, rfl⟩ | ⟨-, rfl⟩ | ⟨-, -, i, hd, hi⟩ | ⟨-, rfl⟩ | ⟨-, -, rfl⟩
  · constructor <;> rfl
  · constructor <;> rfl
  · exact { exec_phase_frame hd hi with }
  · rcases termStep_cases s with ⟨-, ht⟩ | ⟨-, ht⟩ <;> rw [ht]
    · constructor <;> rfl
    · exact engineFrame_finish s
  · exact engineFrame_finish s

/-! ### The controller's turn -/

/-- R64, R122: the phases of an address byte are four of the eleven. -/
theorem addressPhase_mem (b : Byte) (a : Ack) : addressPhase b a ∈ phaseCodes := by
  unfold addressPhase
  cases slaDir b <;> cases a <;> decide

/-- R116, R118: a turn of the controller uses up inputs only, ends a STOP, or reports one of the eleven phases with its
event. -/
theorem controllerStep_reports {s t : State} (h : controllerStep s = .next t) :
    (∃ e n, t = withInputs e n s) ∨
    t = setSto false s ∨
    (∃ e n, t = setSto false (setBus freeBus (emit .stop (withInputs e n s)))) ∨
    (s.ctl.con.si = false ∧ ∃ code ∈ phaseCodes, ∃ b ev d a e n,
      t = enterPhase code (setBus b (emit ev (setDat d (setAct a (withInputs e n s)))))) := by
  rcases controllerStep_cases h with ⟨-, rfl⟩ | ⟨-, hsi, e, n, ht⟩
  · exact .inl ⟨t.env, t.draws, rfl⟩
  rcases ht with rfl | ⟨-, -, rfl⟩ | ⟨-, -, rfl⟩ | ht
  · exact .inl ⟨e, n, rfl⟩
  · exact .inr (.inl rfl)
  · exact .inr (.inr (.inl ⟨e, n, rfl⟩))
  refine .inr (.inr (.inr ⟨hsi, ?_⟩))
  rcases ht with ⟨-, -, -, rfl⟩ | ⟨-, -, -, rfl⟩ | ⟨-, -, -, -, rfl⟩ | ⟨-, -, -, -, -, a, rfl⟩ |
    ⟨-, -, -, -, -, -, a, rfl⟩ | ⟨-, -, -, -, -, -, b, rfl⟩
  · exact ⟨0x08, by decide, startedBus, .start, s.ctl.dat, s.ctl.act, e, n, rfl⟩
  · exact ⟨0x10, by decide, startedBus, .rstart, s.ctl.dat, s.ctl.act, e, n, rfl⟩
  · exact ⟨0x38, by decide, freeBus, .arbLost, s.ctl.dat, actNone, e, n, rfl⟩
  · exact ⟨_, addressPhase_mem _ a, _, _, s.ctl.dat, actNone, e, n, rfl⟩
  · exact ⟨_, by cases a <;> decide, s.bus, _, s.ctl.dat, actNone, e, n, rfl⟩
  · exact ⟨_, by cases s.ctl.con.aa <;> decide, _, _, b, actNone, e, n, rfl⟩

/-- What a turn of the controller leaves alone (R30). -/
structure ControllerFrame (s t : State) : Prop where
  req : t.req = s.req
  status : t.status = s.status
  eng : t.eng = s.eng
  faults : t.faults = s.faults
  mem : t.mem = s.mem
  memMap : t.memMap = s.memMap
  host : t.host = s.host
  schedule : t.schedule = s.schedule
  sclh : t.ctl.sclh = s.ctl.sclh
  scll : t.ctl.scll = s.ctl.scll
  en : t.ctl.con.en = s.ctl.con.en
  sta : t.ctl.con.sta = s.ctl.con.sta
  aa : t.ctl.con.aa = s.ctl.con.aa

theorem controllerStep_frame {s t : State} (h : controllerStep s = .next t) : ControllerFrame s t := by
  rcases controllerStep_reports h with ⟨e, n, rfl⟩ | rfl | ⟨e, n, rfl⟩ | ⟨-, code, -, b, ev, d, a, e, n, rfl⟩ <;>
    constructor <;> rfl

/-- Settles O36: only a report sets SI and writes STAT, only the end of a STOP clears STO. -/
theorem controllerFrame : Obligations.ControllerFrame := by
  intro s t h
  have hf := controllerStep_frame h
  refine ⟨hf.req, hf.status, hf.eng, hf.faults, hf.mem, hf.memMap, hf.host, hf.schedule, hf.sclh, hf.scll, hf.en, hf.sta,
    hf.aa, ?_⟩
  rcases controllerStep_reports h with ⟨e, n, rfl⟩ | rfl | ⟨e, n, rfl⟩ | ⟨hsi, code, -, b, ev, d, a, e, n, rfl⟩
  · simp
  · simp
  · simp
  · simp [hsi]

/-- Settles O48: the frames of the three agents' turns. -/
theorem whoWritesWhat : Obligations.WhoWritesWhat := by
  intro s t hst
  obtain ⟨-, hturn⟩ := step_next hst
  cases ha : (takeAgent s).1 <;> rw [ha] at hturn
  · refine ⟨fun hne => absurd rfl hne, fun _ hcmd => ?_⟩
    rcases hostStep_command_or_frame hturn with ⟨w, rest, hp, -⟩ | hf
    · rw [takeAgent_host] at hp
      exact absurd (by rw [hp]; rfl) (hcmd w)
    · simp [hf.status, hf.eng, hf.ctl, hf.bus, hf.trace, hf.env]
  · have hf := engineStep_frame hturn
    exact ⟨fun _ => by simp [hf.req, hf.host], nofun⟩
  · have hf := controllerStep_frame hturn
    exact ⟨fun _ => by simp [hf.req, hf.host], nofun⟩

end Sys2Proof.Machine
end

section
/-! What every step keeps: FAULT, the phase invariant, the transitions of the sequencer, the result of a TRANSFER (R26, R44,
R84, R147); and the launch state (R45). -/

namespace Sys2Proof.Machine

/-! ### The launch state -/

/-- Settles O38: the reset values, and the words that the host reads of them. -/
theorem resetLeaves : Obligations.ResetLeaves :=
  ⟨rfl, rfl, rfl, rfl, rfl, rfl, rfl, rfl, rfl, rfl⟩

theorem phaseInv_reset : PhaseInv State.reset := rfl

/-- Settles O39: at launch nothing is pending, no command is in flight and the bus is free. -/
theorem resetMeetsTheInvariant : Obligations.ResetMeetsTheInvariant where
  busyIff := by decide
  phase := phaseInv_reset
  quiet := fun _ => ⟨rfl, rfl, rfl⟩
  stoOnly := nofun
  staOnly := nofun
  siOnly := nofun
  waiting := nofun
  transmit := nofun
  receive := nofun
  noThree := by decide
  free := fun _ => rfl
  stopWait := nofun
  idle := fun _ => ⟨rfl, nofun⟩
  failForces := nofun
  caller := nofun
  ended := by rintro (h | h) <;> cases h
  termHeld := nofun
  progress := ⟨le_rfl, le_rfl, rfl⟩
  warm := nofun
  divisors := nofun
  configured := nofun
  owner := rfl
  memory := Memory.wf_reset

/-! ### FAULT -/

theorem step_of_fault {s : State} {f : Fault} {l : List Fault} (h : s.faults = f :: l) : step s = .fault f := by
  simp [step, h]

/-- R147: a run that has faulted stays where it is. -/
theorem advance_of_faulted {s : State} {f : Fault} {l : List Fault} (h : s.faults = f :: l) : advance s = s := by
  simp [advance, step_of_fault h, h]

theorem exec_command_faults {w : Word} {s t : State} (h : exec (decodeCmd w) s = .next t) : t.faults = s.faults := by
  rcases exec_command_next h with ⟨-, rfl⟩ | ⟨-, -, d, rfl⟩ | ⟨-, rfl⟩ <;> rfl

theorem agentStep_faults {a : Agent} {s t : State} (h : agentStep a s = .next t) : t.faults = s.faults := by
  cases a with
  | host =>
    rcases hostStep_command_or_frame h with ⟨w, rest, -, hw⟩ | hf
    · exact (exec_command_faults hw).trans (popHost_faults s)
    · exact hf.faults
  | engine => exact (engineStep_frame h).faults
  | controller => exact (controllerStep_frame h).faults

/-- Settles O5: the fault is recorded in the same state, from which no agent moves; no agent's turn writes FAULT. -/
theorem faultIsFinalAndPrecise : Obligations.FaultIsFinalAndPrecise := by
  refine ⟨fun s f hs hst => ?_, fun s t hst => ?_⟩
  · have hadv : advance s = { s with faults := [f] } := by
      rw [advance_of_fault hs hst, recordFault, hs]
      rfl
    have hrec : (advance s).faults = [f] := by rw [hadv]
    exact ⟨hadv, step_of_fault hrec, advance_of_faulted hrec⟩
  · obtain ⟨-, hturn⟩ := step_next hst
    rw [agentStep_faults hturn, takeAgent_faults]

/-! ### The faults that a step can raise -/

theorem divisor_error_code {p b : Nat} {f : Fault} (h : divisor p b = .error f) : f.code = 4 := by
  unfold divisor at h
  split at h
  · cases h; rfl
  · split at h <;> cases h
    rfl

theorem whenIdle_fault_code {s : State} {k : State → Result State} {f : Fault} (h : whenIdle s k = .fault f)
    (hk : k s = .fault f → f.code ≤ 6) : f.code ≤ 6 := by
  unfold whenIdle at h
  split at h
  · cases h; decide
  · exact hk h

theorem execConfigure_fault_code {x : BitVec 30} {s : State} {f : Fault} (h : execConfigure x s = .fault f) :
    f.code ≤ 6 := by
  refine whenIdle_fault_code h fun h => ?_
  split at h
  · cases h; decide
  · split at h <;> cases h
    exact (divisor_error_code ‹_›).trans_le (by decide)

theorem execTransfer_fault_code {x : BitVec 30} {s : State} {f : Fault} (h : execTransfer x s = .fault f) :
    f.code ≤ 6 := by
  refine whenIdle_fault_code h fun h => ?_
  split at h <;> cases h
  simp [Fault.code]

/-- R149: a command raises no fault above BufferOverrun. -/
theorem exec_command_fault_code {w : Word} {s : State} {f : Fault} (h : exec (decodeCmd w) s = .fault f) :
    f.code ≤ 6 := by
  rcases decodeCmd_cases w with hi | hi | hi | hi <;> rw [hi, exec] at h
  · exact whenIdle_fault_code h nofun
  · exact execConfigure_fault_code h
  · exact execTransfer_fault_code h
  · refine whenIdle_fault_code h fun h => ?_
    cases h
    simp [Fault.code]

theorem hostBuffer_fault_code {a : Word} {s : State} {k : State → State} {f : Fault}
    (h : hostBuffer a s k = .fault f) : f.code ≤ 7 := by
  unfold hostBuffer at h
  split at h
  · cases h; simp [Fault.code]
  · split at h <;> cases h

theorem hostRead_fault_code {w : AccessWidth} {off : Nat} {s : State} {f : Fault} (h : hostRead w off s = .fault f) :
    f.code ≤ 7 := by
  unfold hostRead at h
  split at h
  · cases h; simp [Fault.code]
  · split at h <;> cases h
    simp [Fault.code]

theorem hostWrite_fault_code {w : AccessWidth} {off : Nat} {v : Word} {s : State} {f : Fault}
    (h : hostWrite w off v s = .fault f) : f.code ≤ 7 := by
  unfold hostWrite at h
  split at h
  · cases h; simp [Fault.code]
  · split at h
    · cases h; simp [Fault.code]
    · split at h
      · exact (exec_command_fault_code h).trans (by decide)
      · split at h <;> cases h
        simp [Fault.code]

/-- R146, R149: a turn of the host raises the faults up to BufferConflict only. -/
theorem hostStep_fault_code {s : State} {f : Fault} (h : hostStep s = .fault f) : f.code ≤ 7 := by
  cases hp : s.host.program with
  | nil => rw [hostStep, hp] at h; cases h
  | cons a rest =>
    rw [hostStep_of_program hp] at h
    cases a <;> rw [hostAccess] at h
    case read => exact hostRead_fault_code h
    case write => exact hostWrite_fault_code h
    case poll => cases h
    case bufRead => exact hostBuffer_fault_code h
    case bufWrite => exact hostBuffer_fault_code h

/-- R127, R146: in a state of the invariant a step raises the faults up to BufferConflict only. -/
theorem Inv.step_fault_code {s : State} {f : Fault} (h : Inv s) (hs : s.faults = []) (hst : step s = .fault f) :
    f.code ≤ 7 := by
  rw [step_of_no_fault hs] at hst
  have hu := (alike_takeAgent s).inv h
  cases ha : (takeAgent s).1 <;> rw [ha, agentStep] at hst
  · exact hostStep_fault_code hst
  · rcases engineStep_total hu with ⟨t, ht⟩ | ⟨-, hf⟩
    · rw [ht] at hst; cases hst
    · rw [hf] at hst; cases hst; simp [Fault.code]
  · obtain ⟨t, ht⟩ := controllerStep_total hu
    rw [ht] at hst; cases hst

/-- Settles O42: their codes are above those of every fault that a step raises. -/
theorem noMisuseByThisEngine : Obligations.NoMisuseByThisEngine := by
  refine fun s h hs => ⟨fun a hst => ?_, fun c hst => ?_⟩ <;> simpa [Fault.code] using h.step_fault_code hs hst

/-! ### The phase invariant -/

theorem PhaseInv.congr {s t : State} (h : PhaseInv s) (hsi : t.ctl.con.si = s.ctl.con.si)
    (hstat : t.ctl.stat = s.ctl.stat) : PhaseInv t := by
  rwa [PhaseInv, hsi, hstat]

/-- R110: finishing writes STATUS and the engine's registers only. -/
theorem finish_ctl (s : State) : (finish s).ctl = s.ctl := by
  rcases finish_cases s with ⟨-, ht⟩ | ⟨-, ht⟩ <;> rw [ht]

theorem phaseInv_engineStep {s t : State} (h : PhaseInv s) (ht : engineStep s = .next t) : PhaseInv t := by
  rcases engineStep_next ht with ⟨-, rfl⟩ | ⟨-, rfl⟩ | ⟨-, -, i, hd, hi⟩ | ⟨-, rfl⟩ | ⟨-, -, rfl⟩
  · exact h
  · exact h.congr rfl rfl
  · have hf := exec_phase_frame hd hi
    simp [PhaseInv, hf.si, hf.stat]
  · rcases termStep_cases s with ⟨-, ht⟩ | ⟨-, ht⟩ <;> rw [ht]
    · exact h.congr rfl rfl
    · exact h.congr (by rw [finish_ctl]) (by rw [finish_ctl])
  · exact h.congr (by rw [finish_ctl]) (by rw [finish_ctl])

theorem phaseInv_controllerStep {s t : State} (h : PhaseInv s) (ht : controllerStep s = .next t) : PhaseInv t := by
  rcases controllerStep_reports ht with ⟨e, n, rfl⟩ | rfl | ⟨e, n, rfl⟩ | ⟨-, code, hcode, b, ev, d, a, e, n, rfl⟩
  · exact h.congr rfl rfl
  · exact h.congr rfl rfl
  · exact h.congr rfl rfl
  · simpa [PhaseInv] using hcode

theorem phaseInv_hostStep {s t : State} (h : PhaseInv s) (ht : hostStep s = .next t) : PhaseInv t := by
  rcases hostStep_command_or_frame ht with ⟨w, rest, -, hw⟩ | hf
  · rcases exec_command_next hw with ⟨-, rfl⟩ | ⟨-, -, d, rfl⟩ | ⟨-, rfl⟩
    · exact h.congr rfl rfl
    · simp [PhaseInv]
    · exact h.congr rfl rfl
  · exact h.congr (by rw [hf.ctl]) (by rw [hf.ctl])

/-- Settles O43: only a report sets SI, with a code of R64, and what clears SI puts 0xF8 in STAT. -/
theorem exactlyOnePhaseIsActive : Obligations.ExactlyOnePhaseIsActive := by
  refine ⟨phaseInv_reset, fun s t h hst => ?_⟩
  obtain ⟨-, hturn⟩ := step_next hst
  have hu : PhaseInv (takeAgent s).2 := h.congr (by rw [takeAgent_ctl]) (by rw [takeAgent_ctl])
  cases ha : (takeAgent s).1 <;> rw [ha] at hturn
  · exact phaseInv_hostStep hu hturn
  · exact phaseInv_engineStep hu hturn
  · exact phaseInv_controllerStep hu hturn

/-! ### The sequencer -/

theorem finish_es (s : State) : (finish s).eng.es = .idle := by
  rcases finish_cases s with ⟨-, ht⟩ | ⟨-, ht⟩ <;> rw [ht]

/-- R26: the transitions that a turn of the engine makes. -/
theorem engineStep_transition {s t : State} (h : engineStep s = .next t) (hne : t.eng.es ≠ s.eng.es) :
    (s.eng.es = .start ∧ t.eng.es = .wait) ∨ (s.eng.es = .wait ∧ t.eng.es = .term) ∨
    (s.eng.es = .term ∧ t.eng.es = .stopWait) ∨ (s.eng.es = .term ∧ t.eng.es = .idle) ∨
    (s.eng.es = .stopWait ∧ t.eng.es = .idle) := by
  rcases engineStep_next h with ⟨-, rfl⟩ | ⟨hes, rfl⟩ | ⟨hes, -, i, hd, hi⟩ | ⟨hes, rfl⟩ | ⟨hes, -, rfl⟩
  · exact absurd rfl hne
  · exact .inl ⟨hes, rfl⟩
  · have hterm := (exec_phase_frame hd hi).next.resolve_left (hes ▸ hne)
    exact .inr (.inl ⟨hes, hterm⟩)
  · rcases termStep_cases s with ⟨-, ht⟩ | ⟨-, ht⟩ <;> rw [ht]
    · exact .inr (.inr (.inl ⟨hes, rfl⟩))
    · exact .inr (.inr (.inr (.inl ⟨hes, finish_es s⟩)))
  · exact .inr (.inr (.inr (.inr ⟨hes, finish_es s⟩)))

/-- R26, R77, R82: the transition that a turn of the host makes. -/
theorem hostStep_transition {s t : State} (h : Inv s) (ht : hostStep s = .next t) (hne : t.eng.es ≠ s.eng.es) :
    s.eng.es = .idle ∧ t.eng.es = .start ∧
      ∃ w rest, s.host.program = .write .word 0x00 w :: rest ∧ (w.toNat % 4 = 1 ∨ w.toNat % 4 = 2) := by
  rcases hostStep_command_or_frame ht with ⟨w, rest, hp, hw⟩ | hf
  · have hidle := h.es_of_not_busy (not_busy_of_exec_command (s := popHost s) hw)
    rcases exec_command_next hw with ⟨-, rfl⟩ | ⟨hop, -, d, rfl⟩ | ⟨hop, rfl⟩
    · exact absurd rfl hne
    · exact ⟨hidle, rfl, w, rest, hp, .inl hop⟩
    · exact ⟨hidle, rfl, w, rest, hp, .inr hop⟩
  · exact absurd (by rw [hf.eng]) hne

/-- Settles O30: by the agent that moves; the controller writes no engine register. -/
theorem sequencerTransitions : Obligations.SequencerTransitions := by
  intro s t h hst hne
  obtain ⟨-, hturn⟩ := step_next hst
  have hu := (alike_takeAgent s).inv h
  rw [← takeAgent_eng s] at hne ⊢
  rw [← takeAgent_host s]
  cases ha : (takeAgent s).1 <;> rw [ha] at hturn
  · obtain ⟨hidle, hstart, hcmd⟩ := hostStep_transition hu hturn hne
    exact .inl ⟨hidle, hstart, rfl, hcmd⟩
  · exact .inr ⟨rfl, engineStep_transition hturn hne⟩
  · exact absurd (by rw [(controllerStep_frame hturn).eng]) hne

/-! ### The result of a TRANSFER -/

/-- R108 to R110: a turn of the engine writes STATUS only where it finishes the command. -/
theorem engineStep_status {s t : State} (h : engineStep s = .next t) :
    t.status = s.status ∨
    (s.eng.es = .term ∧ s.eng.wTstop = false ∨ s.eng.es = .stopWait ∧ s.ctl.con.sto = false) ∧ t = finish s := by
  rcases engineStep_next h with ⟨-, rfl⟩ | ⟨-, rfl⟩ | ⟨-, -, i, hd, hi⟩ | ⟨hes, rfl⟩ | ⟨hes, hsto, rfl⟩
  · exact .inl rfl
  · exact .inl rfl
  · exact .inl (exec_phase_frame hd hi).status
  · rcases termStep_cases s with ⟨-, ht⟩ | ⟨hts, ht⟩ <;> rw [ht]
    · exact .inl rfl
    · exact .inr ⟨.inl ⟨hes, hts⟩, rfl⟩
  · exact .inr ⟨.inr ⟨hes, hsto⟩, rfl⟩

/-- R110: a command ends in a turn of the engine that finishes it. -/
theorem finish_of_busy_falls {s t : State} (hst : step s = .next t) (hb : s.status.busy = true)
    (hbt : t.status.busy = false) :
    ∃ u, Alike s u ∧ t = finish u ∧
      (s.eng.es = .term ∧ s.eng.wTstop = false ∨ s.eng.es = .stopWait ∧ s.ctl.con.sto = false) := by
  obtain ⟨-, hturn⟩ := step_next hst
  have hne : t.status ≠ (takeAgent s).2.status := by
    intro heq
    rw [heq, takeAgent_status, hb] at hbt
    cases hbt
  cases ha : (takeAgent s).1 <;> rw [ha] at hturn
  · exact absurd (hostStep_sameBlock (by simpa using hb) hturn).status hne
  · obtain ⟨hend, rfl⟩ := (engineStep_status hturn).resolve_left hne
    exact ⟨_, alike_takeAgent s, rfl, by simpa using hend⟩
  · exact absurd (controllerStep_frame hturn).status hne

/-- R115: with no byte left, W_PTR has come to the window's end. -/
theorem ProgressInv.wPtr_eq_wEnd {s : State} (h : ProgressInv s) (h0 : s.eng.wLen = 0) : s.eng.wPtr = s.eng.wEnd := by
  obtain ⟨h1, h2, h3⟩ := h
  have hlen : s.eng.wLen.toNat = 0 := by simp [h0]
  exact BitVec.eq_of_toNat_eq (by omega)

section
variable {s : State} (h : Inv s)
  (hend : s.eng.es = .term ∧ s.eng.wTstop = false ∨ s.eng.es = .stopWait ∧ s.ctl.con.sto = false)
include h hend

/-- R84: where a command finishes without a failure, the bus is held exactly where no trailing stop was asked for. -/
theorem Inv.held_iff_of_success (hf : s.eng.wFail = false) : s.bus.own = .held ↔ s.eng.wTstop = false := by
  rcases hend with ⟨hes, hts⟩ | ⟨hes, hsto⟩
  · simp [h.termHeld hes hf, hts]
  · obtain ⟨hts, hown⟩ := h.stopWait hes
    simp [hts, hown hsto]

/-- R84, R95: where a command finishes with a failure, the forced STOP has released the bus. -/
theorem Inv.free_of_failure (hf : s.eng.wFail = true) : s.eng.wTstop = true ∧ s.bus.own = .free := by
  have hts := h.failForces hf
  rcases hend with ⟨-, h0⟩ | ⟨hes, hsto⟩
  · rw [hts] at h0; cases h0
  · exact ⟨hts, (h.stopWait hes).2 hsto⟩

end

/-- Settles O46: the command ends by finishing, in STOPWAIT with the bus released or in TERM with the bus still held. -/
theorem transferResultContract : Obligations.TransferResultContract := by
  intro s t h hst hb hbt hw
  obtain ⟨u, hu, rfl, hend⟩ := finish_of_busy_falls hst hb hbt
  obtain ⟨_, _, _, _, rfl, -, -⟩ := hu
  rw [finish, if_neg (by simp [hw])]
  refine ⟨fun hf => ?_, fun hf => h.free_of_failure hend hf, rfl, rfl⟩
  have hlen := h.ended (hend.imp And.left And.left) hf
  have hheld := h.held_iff_of_success hend hf
  refine ⟨hlen, h.progress.wPtr_eq_wEnd hlen, hheld, ?_⟩
  rw [← h.caller hb hw hf]
  exact hheld

end Sys2Proof.Machine
end

section
/-! The host's path to buffer memory (R46, R57, R58). -/

namespace Sys2Proof.Machine

theorem popHost_of_program {s : State} {a : HostAccess} {rest : List HostAccess} (h : s.host.program = a :: rest) :
    popHost s = { s with host := { s.host with program := rest } } := by
  simp [popHost, h]

theorem hostStep_bufRead {s : State} {a : Word} {rest : List HostAccess} (hp : s.host.program = .bufRead a :: rest) :
    hostStep s = hostBuffer a s fun t => logReply (.buf a (Memory.read t.mem a.toNat)) t := by
  rw [hostStep_of_program hp, hostAccess]

theorem hostStep_bufWrite {s : State} {a : Word} {v : Byte} {rest : List HostAccess}
    (hp : s.host.program = .bufWrite a v :: rest) :
    hostStep s = hostBuffer a s fun t => { t with mem := Memory.write t.mem a.toNat v } := by
  rw [hostStep_of_program hp, hostAccess]

/-- R58: while BUSY = 1 the window is the engine's. -/
theorem hostBuffer_of_conflict {s : State} {a : Word} (k : State → State) (hb : s.status.busy = true)
    (hw : inWindow s a = true) : hostBuffer a s k = .fault (.bufferConflict a) := by
  simp [hostBuffer, hb, hw]

/-- R58: any other access to a byte of MEM is made. -/
theorem hostBuffer_of_allowed {s : State} {a : Word} (k : State → State)
    (h : ¬(s.status.busy = true ∧ inWindow s a = true)) (hm : inMem s a = true) :
    hostBuffer a s k = .next (k (popHost s)) := by
  rw [hostBuffer, if_neg (by simpa using h), if_pos hm]

/-- R47: outside MEM there is no byte. -/
theorem hostBuffer_of_absent {s : State} {a : Word} (k : State → State)
    (h : ¬(s.status.busy = true ∧ inWindow s a = true)) (hm : inMem s a = false) :
    hostBuffer a s k = .refused (.hostBufferAbsent a) := by
  rw [hostBuffer, if_neg (by simpa using h), if_neg (by simp [hm])]

/-- An access to buffer memory that is made has done its part in the state with that access taken. -/
theorem hostBuffer_next {s t : State} {a : Word} {k : State → State} (h : hostBuffer a s k = .next t) :
    t = k (popHost s) := by
  unfold hostBuffer at h
  split at h
  · cases h
  · split at h <;> cases h
    rfl

/-- Settles O12: the conflict is the one of R58, and an access that is made takes itself from the program. -/
theorem borrowedBufferStopsTheHost : Obligations.BorrowedBufferStopsTheHost := by
  intro s a v rest
  rw [← inWindow_iff]
  refine ⟨fun hb h1 h2 => ?_, fun h hm => ?_⟩
  · have hw := inWindow_iff.2 ⟨h1, h2⟩
    exact ⟨fun hp => (hostStep_bufRead hp).trans (hostBuffer_of_conflict _ hb hw),
      fun hp => (hostStep_bufWrite hp).trans (hostBuffer_of_conflict _ hb hw)⟩
  · refine ⟨fun hp => ?_, fun hp => ?_⟩
    · rw [hostStep_bufRead hp, hostBuffer_of_allowed _ h hm, popHost_of_program hp]
      rfl
    · rw [hostStep_bufWrite hp, hostBuffer_of_allowed _ h hm, popHost_of_program hp]

/-- Settles O13: no conflict, and no byte. -/
theorem absentBufferByteIsRefused : Obligations.AbsentBufferByteIsRefused := by
  intro s a v rest h hm
  have hc : ¬(s.status.busy = true ∧ inWindow s a = true) := by
    rw [inWindow_iff]
    rintro ⟨hb, h1, h2⟩
    rcases h with h | h | h
    · simp [hb] at h
    · omega
    · omega
  exact ⟨fun hp => (hostStep_bufRead hp).trans (hostBuffer_of_absent _ hc hm),
    fun hp => (hostStep_bufWrite hp).trans (hostBuffer_of_absent _ hc hm)⟩

/-- Settles O14: a write that is made is a `Memory.write`. -/
theorem bufferWriteThenRead : Obligations.BufferWriteThenRead := by
  intro s t a v rest hwf hp h
  rw [hostStep_bufWrite hp] at h
  rw [hostBuffer_next h]
  exact ⟨Memory.read_write_same hwf.1 _ _, fun b hb => Memory.read_write_other _ _ _ hb, Memory.wf_write hwf a v⟩

end Sys2Proof.Machine
end

section
/-! The issue steps of the two commands (R77, R82), and the handlers that move a byte (R98, R100, R105, R106). -/

namespace Sys2Proof.Machine

/-! ### Issue steps -/

theorem whenIdle_of_idle {s : State} (k : State → Result State) (hb : s.status.busy = false) : whenIdle s k = k s := by
  simp [whenIdle, hb]

/-- R77, R79, R85: CONFIGURE on an idle block with a free bus goes by its divisor. -/
theorem execConfigure_of_divisor {s : State} {d : Nat} (x : BitVec 30) (hb : s.status.busy = false)
    (hown : s.bus.own = .free) (hd : divisor (inputClockHz s) (targetBusHz s) = .ok d) :
    execConfigure x s = .next (issueTransfer warmupOperands true (configureController d s)) := by
  rw [execConfigure, whenIdle_of_idle _ hb, if_neg (by simp [hown]), hd]

theorem execConfigure_of_no_divisor {s : State} {f : Fault} (x : BitVec 30) (hb : s.status.busy = false)
    (hown : s.bus.own = .free) (hd : divisor (inputClockHz s) (targetBusHz s) = .error f) :
    execConfigure x s = .fault f := by
  rw [execConfigure, whenIdle_of_idle _ hb, if_neg (by simp [hown]), hd]

/-- R79: a half period that DIV_W does not hold. -/
theorem divisor_of_out_of_range {p b : Nat} (hb : b ≠ 0) (h : halfPeriod p b = 0 ∨ 2 ^ Config.divW ≤ halfPeriod p b) :
    divisor p b = .error (.configInvalid (halfPeriod p b)) := by
  rw [divisor, if_neg hb, if_pos h]

/-- Settles O16: the checks in R149's order, then the issue step. -/
theorem configureIssuesOrStops : Obligations.ConfigureIssuesOrStops := by
  intro x s hb
  refine ⟨fun d hown h0 hd hpos hlt => ?_, fun hown => ?_, fun hown h0 => ?_, fun d hown h0 hd hrange => ?_⟩
  · have hdiv : divisor (inputClockHz s) (targetBusHz s) = .ok d := divisor_eq_ok.2 ⟨h0, hd, hpos, hlt⟩
    rw [exec, execConfigure_of_divisor x hb hown hdiv, ← hown]
    rfl
  · rw [exec, execConfigure, whenIdle_of_idle _ hb, if_pos hown]
  · have hdiv : divisor (inputClockHz s) (targetBusHz s) = .error (.configInvalid 0) := by
      simp [divisor, targetBusHz, h0]
    exact execConfigure_of_no_divisor x hb hown hdiv
  · have hb0 : targetBusHz s ≠ 0 := fun h => h0 (BitVec.eq_of_toNat_eq h)
    have hdiv : divisor (inputClockHz s) (targetBusHz s) = .error (.configInvalid d) := by
      subst hd
      exact divisor_of_out_of_range hb0 hrange
    exact execConfigure_of_no_divisor x hb hown hdiv

/-- Settles O19: the window's end is the sum, which fits. -/
theorem transferIssues : Obligations.TransferIssues := by
  intro x s hb
  rw [exec, execTransfer_idle x hb]
  refine ⟨fun hlim => ?_, fun hlim => if_pos hlim⟩
  have hend : BitVec.ofNat 32 (transferOperands s).limit = s.req.buf + s.req.len := by
    simp [TransferOperands.limit, transferOperands, BitVec.ofNat_add]
  rw [if_neg (Nat.not_le.2 hlim), issueTransfer, hend]
  rfl

/-! ### The byte at W_PTR -/

/-- R49, R50: W_PTR is outside the window or MEM. -/
theorem not_accessible {s : State} {a : Word}
    (h : a.toNat < s.eng.wBeg.toNat ∨ s.eng.wEnd.toNat ≤ a.toNat ∨ inMem s a = false) :
    ¬(inWindow s a = true ∧ inMem s a = true) := by
  rw [inWindow_iff]
  rintro ⟨⟨h1, h2⟩, hm⟩
  rcases h with h | h | h
  · omega
  · omega
  · simp [hm] at h

theorem toNat_succ_of_lt {a b : Word} (h : a.toNat < b.toNat) : (a + 1).toNat = a.toNat + 1 :=
  BitVec.toNat_add_of_lt (Nat.lt_of_le_of_lt h b.isLt)

/-- R98, R105: with a byte left, counting it takes no free value. -/
theorem countByte_of_length {s : State} (h : s.eng.wLen ≠ 0) :
    countByte s = { s with eng := { s.eng with wPtr := s.eng.wPtr + 1, wLen := lengthAfterByte s } } := by
  rw [countByte, if_neg h]

/-- R98, R100: a byte is left and may be read. -/
theorem transmitNext_of_accessible {s : State} (h0 : s.eng.wLen ≠ 0) (hw : inWindow s s.eng.wPtr = true)
    (hm : inMem s s.eng.wPtr = true) :
    transmitNext s = .next { s with
      eng := { s.eng with wPtr := s.eng.wPtr + 1, wLen := lengthAfterByte s, es := .wait }
      ctl :=
        { s.ctl with dat := Memory.read s.mem s.eng.wPtr.toNat, act := 1, stat := 0xF8,
                     con := { s.ctl.con with si := false } } } := by
  simp only [transmitNext, if_neg h0, memRead_eq_ok.2 ⟨hw, hm, rfl⟩]
  rw [countByte_of_length (s := setDat (Memory.read s.mem s.eng.wPtr.toNat) s) h0]
  rfl

/-- R98, R100: no byte is left. -/
theorem transmitNext_of_no_length {s : State} (h0 : s.eng.wLen = 0) :
    transmitNext s = .next (epilogue .complete (setAct actNone s)) := if_pos h0

/-- R49: a byte is left that may not be read. -/
theorem transmitNext_of_not_accessible {s : State} (h0 : s.eng.wLen ≠ 0)
    (h : ¬(inWindow s s.eng.wPtr = true ∧ inMem s s.eng.wPtr = true)) :
    transmitNext s = .fault (.bufferOverrun s.eng.wPtr) := by
  rw [transmitNext, if_neg h0, memRead_eq_error.2 ⟨h, rfl⟩]

/-- R50: a received byte has no place. -/
theorem storeReceived_of_not_accessible {s : State}
    (h : ¬(inWindow s s.eng.wPtr = true ∧ inMem s s.eng.wPtr = true)) :
    storeReceived s = .fault (.bufferOverrun s.eng.wPtr) := by
  rw [storeReceived, memWrite_eq_error.2 ⟨h, rfl⟩]

/-- R105, R106: what follows a store with a byte to come, by the length that is left. -/
theorem afterStore_of_length {s : State} {n : Word} (h0 : s.eng.wLen ≠ 0) (hn : lengthAfterByte s = n) :
    afterStore s = { s with
      eng := { s.eng with wPtr := s.eng.wPtr + 1, wLen := n, es := if n = 0 then .term else .wait }
      ctl :=
        { s.ctl with act := if n = 0 then 0 else 2, stat := 0xF8,
                     con := { s.ctl.con with aa := if n = 1 then false else s.ctl.con.aa, si := false } } } := by
  rcases afterStore_cases s with ⟨hz, ht⟩ | ⟨hone, ht⟩ | ⟨hz, hone, ht⟩ <;> rw [ht, countByte_of_length h0, hn]
  · obtain rfl : n = 0 := hn ▸ hz
    rfl
  · obtain rfl : n = 1 := hn ▸ hone
    rfl
  · rw [hn] at hz hone
    rw [if_neg hz, if_neg hz, if_neg hone]
    rfl

/-- R105, R106: the received byte has a place. -/
theorem storeReceived_of_accessible {s : State} {n : Word} (h0 : s.eng.wLen ≠ 0) (hw : inWindow s s.eng.wPtr = true)
    (hm : inMem s s.eng.wPtr = true) (hn : lengthAfterByte s = n) :
    storeReceived s = .next { s with
      mem := Memory.write s.mem s.eng.wPtr.toNat s.ctl.dat
      eng := { s.eng with wPtr := s.eng.wPtr + 1, wLen := n, es := if n = 0 then .term else .wait }
      ctl :=
        { s.ctl with act := if n = 0 then 0 else 2, stat := 0xF8,
                     con := { s.ctl.con with aa := if n = 1 then false else s.ctl.con.aa, si := false } } } := by
  rw [storeReceived_of_inWindow hw hm,
    afterStore_of_length (s := { s with mem := Memory.write s.mem s.eng.wPtr.toNat s.ctl.dat }) h0 hn]

/-- R105, R106: the received byte has a place and is not the last. -/
theorem storeReceived_of_more {s : State} {aa : Bool} (h0 : s.eng.wLen ≠ 0) (hw : inWindow s s.eng.wPtr = true)
    (hm : inMem s s.eng.wPtr = true) (hn : lengthAfterByte s ≠ 0)
    (haa : (if lengthAfterByte s = 1 then false else s.ctl.con.aa) = aa) :
    storeReceived s = .next { s with
      mem := Memory.write s.mem s.eng.wPtr.toNat s.ctl.dat
      eng := { s.eng with wPtr := s.eng.wPtr + 1, wLen := lengthAfterByte s, es := .wait }
      ctl := { s.ctl with act := 2, stat := 0xF8, con := { s.ctl.con with aa := aa, si := false } } } := by
  rw [storeReceived_of_accessible h0 hw hm rfl, if_neg hn, if_neg hn, haa]

/-- R105, R106: the received byte has a place and is the last. -/
theorem storeReceived_of_last {s : State} (h0 : s.eng.wLen ≠ 0) (hw : inWindow s s.eng.wPtr = true)
    (hm : inMem s s.eng.wPtr = true) (hn : lengthAfterByte s = 0) :
    storeReceived s = .next { s with
      mem := Memory.write s.mem s.eng.wPtr.toNat s.ctl.dat
      eng := { s.eng with wPtr := s.eng.wPtr + 1, wLen := 0, es := .term }
      ctl := { s.ctl with act := 0, stat := 0xF8, con := { s.ctl.con with si := false } } } := by
  rw [storeReceived_of_accessible h0 hw hm hn, if_pos rfl, if_pos rfl, if_neg (by decide)]

theorem exec_writeAcked {i : Instr} (hi : i = .addressWriteAcked ∨ i = .dataWriteAcked) (s : State) :
    exec i s = transmitNext s := by
  rcases hi with rfl | rfl <;> rfl

theorem exec_dataRead {i : Instr} (hi : i = .dataReadAcked ∨ i = .dataReadNacked) (s : State) :
    exec i s = storeReceived s := by
  rcases hi with rfl | rfl <;> rfl

/-- Settles O23: the transmit step with a byte left, with none left, and with one that may not be read. -/
theorem writeAckedSendsEndsOrStops : Obligations.WriteAckedSendsEndsOrStops := by
  intro i s hi
  rw [exec_writeAcked hi]
  refine ⟨fun hpos hbeg hend hm => ?_, fun h0 => transmitNext_of_no_length h0,
    fun h0 h => transmitNext_of_not_accessible h0 (not_accessible h)⟩
  have h0 : s.eng.wLen ≠ 0 := by intro h0; simp [h0] at hpos
  refine ⟨s.eng.wPtr + 1, lengthAfterByte s, toNat_succ_of_lt hend, lengthAfterByte_toNat h0, ?_⟩
  exact transmitNext_of_accessible h0 (inWindow_iff.2 ⟨hbeg, hend⟩) hm

/-- Settles O25: the store, then the count, by the length that is left. -/
theorem dataReadStoresTheByte : Obligations.DataReadStoresTheByte := by
  intro i s hi hwf hpos hbeg hend hm
  have h0 : s.eng.wLen ≠ 0 := by intro h0; simp [h0] at hpos
  refine ⟨Memory.write s.mem s.eng.wPtr.toNat s.ctl.dat, s.eng.wPtr + 1, lengthAfterByte s,
    Memory.read_write_same hwf.1 _ _, fun a ha => Memory.read_write_other _ _ _ ha, Memory.wf_write hwf _ _,
    toNat_succ_of_lt hend, lengthAfterByte_toNat h0, ?_⟩
  rw [exec_dataRead hi, storeReceived_of_accessible h0 (inWindow_iff.2 ⟨hbeg, hend⟩) hm rfl]

/-- Settles O26: with no byte left, W_PTR has come to the window's end. -/
theorem dataReadOverrunStops : Obligations.DataReadOverrunStops := by
  intro i s hi
  rw [exec_dataRead hi]
  refine ⟨fun h => storeReceived_of_not_accessible (not_accessible h), fun h h0 => ?_⟩
  exact storeReceived_of_not_accessible (not_accessible (.inr (.inl (by rw [h.wPtr_eq_wEnd h0]))))

end Sys2Proof.Machine
end

section
/-! SUPPORT. Runs whose turns are named (R10), and the turns of a TRANSFER in which the environment's answer is known. -/

namespace Sys2Proof.Machine

/-! ### Turns in a given order -/

/-- The agents of the list take the next turns in this order, none of them faults, and they lead from one state to the
other. -/
inductive Turns : List Agent → State → State → Prop
  | nil (s : State) : Turns [] s s
  | cons {a : Agent} {l sch : List Agent} {s t u : State} (hs : s.faults = []) (hsch : s.schedule = a :: sch)
      (ht : agentStep a { s with schedule := sch } = .next t) (h : Turns l t u) : Turns (a :: l) s u

theorem step_of_turn {a : Agent} {sch : List Agent} {s t : State} (hs : s.faults = []) (hsch : s.schedule = a :: sch)
    (ht : agentStep a { s with schedule := sch } = .next t) : step s = .next t := by
  rw [step_of_no_fault hs, takeAgent_cons hsch, ht]

theorem run_succ {s t : State} (h : step s = .next t) (k : Nat) :
    Host.Core.run core (k + 1) s = Host.Core.run core k t := by
  simp [Host.Core.run, show core.step s = .next t from h]

theorem Turns.run {l : List Agent} {s t : State} (h : Turns l s t) : Host.Core.run core l.length s = .next t := by
  induction h with
  | nil => rfl
  | cons hs hsch ht _ ih => rw [List.length_cons, run_succ (step_of_turn hs hsch ht), ih]

theorem Turns.append {l m : List Agent} {s t u : State} (h : Turns l s t) (h' : Turns m t u) : Turns (l ++ m) s u := by
  induction h with
  | nil => exact h'
  | cons hs hsch ht _ ih => exact .cons hs hsch ht (ih h')

theorem Turns.inv {l : List Agent} {s t : State} (h : Turns l s t) (hi : Inv s) : Inv t := by
  induction h with
  | nil => exact hi
  | cons hs hsch ht _ ih => exact ih (stepKeepsTheInvariant _ _ hi (step_of_turn hs hsch ht))

/-! ### The host's turn and the engine's -/

/-- R76, R82: the host's turn that writes TRANSFER to CMD issues it. -/
theorem hostStep_transfer {s : State} {w : Word} {prog : List HostAccess} (hb : s.status.busy = false)
    (hp : s.host.program = .write .word 0x00 w :: prog) (hw : w.toNat % 4 = 2)
    (hlim : s.req.buf.toNat + s.req.len.toNat < 2 ^ 32) :
    hostStep s =
      .next { s with
        status := { s.status with busy := true }
        eng :=
          { wSla := s.req.sla, wBeg := s.req.buf, wPtr := s.req.buf, wEnd := BitVec.ofNat 32 (transferOperands s).limit,
            wLen := s.req.len, wTstop := s.req.tstop, wFail := false, wWarm := false, es := .start }
        host := { s.host with program := prog } } := by
  rw [hostStep_command hp, decodeCmd_transfer hw, exec, popHost_of_program hp,
    execTransfer_idle (s := { s with host := { s.host with program := prog } }) _ hb, if_neg (Nat.not_le.2 hlim)]
  rfl

/-- R92. -/
theorem engineStep_of_start {s : State} (hes : s.eng.es = .start) :
    engineStep s = .next { s with
      eng := { s.eng with es := .wait }
      ctl := { s.ctl with con := { s.ctl.con with sta := true } } } := by
  simp only [engineStep, engineEnabled, hes]
  rfl

/-- R108. -/
theorem engineStep_of_term {s : State} (hes : s.eng.es = .term) : engineStep s = .next (termStep s) := by
  simp [engineStep, engineEnabled, hes]

/-- R108: the trailing stop is requested. -/
theorem engineStep_of_term_stop {s : State} (hes : s.eng.es = .term) (hts : s.eng.wTstop = true) :
    engineStep s = .next { s with
      eng := { s.eng with es := .stopWait }
      ctl := { s.ctl with con := { s.ctl.con with sto := true } } } := by
  rw [engineStep_of_term hes, termStep, if_pos hts]
  rfl

/-- R108, R110: a TRANSFER ends without a trailing stop. -/
theorem engineStep_of_term_end {s : State} (hes : s.eng.es = .term) (hts : s.eng.wTstop = false)
    (hw : s.eng.wWarm = false) :
    engineStep s = .next
      { s with status := { s.status with fail := s.eng.wFail, busy := false }, eng := { s.eng with es := .idle } } := by
  simp [engineStep_of_term hes, termStep, hts, finish, hw]

/-- R109, R110: a TRANSFER ends after its STOP. -/
theorem engineStep_of_stopWait {s : State} (hes : s.eng.es = .stopWait) (hsto : s.ctl.con.sto = false)
    (hw : s.eng.wWarm = false) :
    engineStep s = .next
      { s with status := { s.status with fail := s.eng.wFail, busy := false }, eng := { s.eng with es := .idle } } := by
  simp [engineStep, engineEnabled, hes, hsto, finish, hw]

/-- R96, R97. -/
theorem engineStep_of_startPhase {s : State} {o : Own} (hes : s.eng.es = .wait) (hsi : s.ctl.con.si = true)
    (hstat : s.ctl.stat = startPhase o) :
    engineStep s = .next { s with
      eng := { s.eng with es := .wait }
      ctl :=
        { s.ctl with dat := s.eng.wSla, act := actTx, stat := noPhase,
                     con := { s.ctl.con with sta := false, si := false } } } := by
  cases o
  · exact engineStep_phase (i := .started) hes hsi (by rw [hstat]; rfl)
  · exact engineStep_phase (i := .repeatStarted) hes hsi (by rw [hstat]; rfl)

/-- R98, R100. -/
theorem engineStep_of_writeAcked {s : State} (hes : s.eng.es = .wait) (hsi : s.ctl.con.si = true)
    (hstat : s.ctl.stat = 0x18 ∨ s.ctl.stat = 0x28) : engineStep s = transmitNext s := by
  rcases hstat with hstat | hstat
  · exact engineStep_phase (i := .addressWriteAcked) hes hsi (by rw [hstat]; rfl)
  · exact engineStep_phase (i := .dataWriteAcked) hes hsi (by rw [hstat]; rfl)

/-- R103. -/
theorem engineStep_of_addressReadAcked {s : State} (hes : s.eng.es = .wait) (hsi : s.ctl.con.si = true)
    (hstat : s.ctl.stat = 0x40) : engineStep s = .next { s with
      eng := { s.eng with es := .wait }
      ctl := { s.ctl with act := actRx, stat := noPhase, con := { s.ctl.con with aa := true, si := false } } } :=
  engineStep_phase (i := .addressReadAcked) hes hsi (by rw [hstat]; rfl)

/-- R105, R106. -/
theorem engineStep_of_dataRead {s : State} (hes : s.eng.es = .wait) (hsi : s.ctl.con.si = true)
    (hstat : s.ctl.stat = 0x50 ∨ s.ctl.stat = 0x58) : engineStep s = storeReceived s := by
  rcases hstat with hstat | hstat
  · exact engineStep_phase (i := .dataReadAcked) hes hsi (by rw [hstat]; rfl)
  · exact engineStep_phase (i := .dataReadNacked) hes hsi (by rw [hstat]; rfl)

/-! ### The controller's turn -/

/-- The START or repeated START asked for is made: granted on a free bus, not blocked on a held one (R119, R120, R131). -/
def StartGoes (s : State) : Prop :=
  s.bus.own = .free ∧ (∃ gs, s.env.grants = true :: gs) ∨
  s.bus.own = .held ∧ (s.bus.sdrv = false ∨ ∃ gs, s.env.releases = true :: gs)

/-- A STOP asked for is not blocked (R129, R131). -/
def StopGoes (s : State) : Prop := s.bus.sdrv = false ∨ ∃ rels, s.env.releases = true :: rels

/-- What is left of the environment's answers after a start: those to bytes are untouched, and at most one release is
used. -/
structure StartInputs (e e' : BusEnv) : Prop where
  tx : e'.tx = e.tx
  rx : e'.rx = e.rx
  releases : e'.releases = e.releases ∨ e'.releases = e.releases.tail

/-- R131: a release that is not blocked. -/
theorem askRelease_of_stopGoes {s : State} (h : StopGoes s) :
    ∃ rels, askRelease s = (true, { s with env := { s.env with releases := rels } }) ∧
      (rels = s.env.releases ∨ rels = s.env.releases.tail) := by
  unfold askRelease
  split
  · exact ⟨_, rfl, .inl rfl⟩
  next hd =>
    obtain ⟨rels, hr⟩ := h.resolve_left hd
    exact ⟨rels, by rw [hr], .inr (by rw [hr]; rfl)⟩

/-- R119, R120. -/
theorem controllerStep_start {s : State} (hr : busRequest s = .start) (h : StartGoes s) :
    ∃ e, StartInputs s.env e ∧
      controllerStep s = .next { s with
        ctl := { s.ctl with stat := startPhase s.bus.own, con := { s.ctl.con with si := true } }
        bus := startedBus
        trace := s.trace ++ [startEvent s.bus.own]
        env := e } := by
  rcases h with ⟨hown, gs, hg⟩ | ⟨hown, hgo⟩
  · refine ⟨{ s.env with grants := gs }, ⟨rfl, rfl, .inl rfl⟩, ?_⟩
    simp only [controllerStep, hr, hown, startFree, askGrant, hg]
    rfl
  · obtain ⟨rels, hask, hrels⟩ := askRelease_of_stopGoes hgo
    refine ⟨{ s.env with releases := rels }, ⟨rfl, rfl, hrels⟩, ?_⟩
    simp only [controllerStep, hr, hown, if_true, startHeld, hask]
    rfl

/-- R122. -/
theorem controllerStep_address {s : State} {a : Ack} {as : List TxAnswer} (hr : busRequest s = .transmit)
    (hown : s.bus.own = .held) (hfirst : s.bus.firstTx = true) (htx : s.env.tx = .reply a :: as) :
    controllerStep s = .next { s with
      ctl := { s.ctl with act := actNone, stat := addressPhase s.ctl.dat a, con := { s.ctl.con with si := true } }
      bus := { s.bus with firstTx := false, mode := addressMode s.ctl.dat a }
      trace := s.trace ++ [.addr s.ctl.dat a]
      env := { s.env with tx := as } } := by
  simp only [controllerStep, hr, if_pos (show mayTransmit s = true by simp [mayTransmit, hown, hfirst]), if_pos hfirst,
    txAddress, askTx, htx]
  rfl

/-- R123. -/
theorem controllerStep_data {s : State} {a : Ack} {as : List TxAnswer} (hr : busRequest s = .transmit)
    (hown : s.bus.own = .held) (hfirst : s.bus.firstTx = false) (hmode : s.bus.mode = .mt)
    (htx : s.env.tx = .reply a :: as) :
    controllerStep s = .next { s with
      ctl :=
        { s.ctl with act := actNone, stat := if a = .ack then 0x28 else 0x30, con := { s.ctl.con with si := true } }
      trace := s.trace ++ [.txd s.ctl.dat a]
      env := { s.env with tx := as } } := by
  simp only [controllerStep, hr, if_pos (show mayTransmit s = true by simp [mayTransmit, hown, hmode]),
    if_neg (show ¬s.bus.firstTx = true by simp [hfirst]), txData, askTx, htx]
  rfl

/-- R125. -/
theorem controllerStep_receive {s : State} {b : Byte} {rs : List RxAnswer} {aa : Bool} (hr : busRequest s = .receive)
    (hown : s.bus.own = .held) (hfirst : s.bus.firstTx = false) (hmode : s.bus.mode = .mr)
    (haa : s.ctl.con.aa = aa) (hrx : s.env.rx = .byte b :: rs) :
    controllerStep s = .next { s with
      ctl :=
        { s.ctl with dat := b, act := actNone, stat := if aa then 0x50 else 0x58, con := { s.ctl.con with si := true } }
      bus := { s.bus with sdrv := aa }
      trace := s.trace ++ [.rxd b (if aa then .ack else .nack)]
      env := { s.env with rx := rs } } := by
  subst haa
  simp only [controllerStep, hr, if_pos (show mayReceive s = true by simp [mayReceive, hown, hfirst, hmode]), rxData,
    askRx, hrx]
  rfl

/-- R129. -/
theorem controllerStep_stop {s : State} (hr : busRequest s = .stop) (hown : s.bus.own = .held) (h : StopGoes s) :
    ∃ e, controllerStep s = .next { s with
      ctl := { s.ctl with con := { s.ctl.con with sto := false } }
      bus := freeBus
      trace := s.trace ++ [.stop]
      env := e } := by
  obtain ⟨rels, hask, -⟩ := askRelease_of_stopGoes h
  refine ⟨{ s.env with releases := rels }, ?_⟩
  simp only [controllerStep, hr, if_pos hown, stopHeld, hask]
  rfl

end Sys2Proof.Machine
end

section
/-! Whole transfers against a responsive peripheral (R83, R87, R88, R113, R114): the opening, the data bytes, the end. -/

namespace Sys2Proof.Machine

/-! ### The opening and the end -/

/-- R83, R88: from the CMD write to the answer to the address byte. -/
theorem turns_opening {s : State} {w : Word} {prog : List HostAccess} {sch : List Agent} {a : Ack} {as : List TxAnswer}
    (hi : Inv s) (hs : s.faults = []) (hb : s.status.busy = false) (hen : s.ctl.con.en = true)
    (hp : s.host.program = .write .word 0x00 w :: prog) (hw : w.toNat % 4 = 2)
    (hlim : s.req.buf.toNat + s.req.len.toNat < 2 ^ 32) (hgo : StartGoes s) (htx : s.env.tx = .reply a :: as)
    (hsch : s.schedule = .host :: .engine :: .controller :: .engine :: .controller :: sch) :
    ∃ e : BusEnv, StartInputs { s.env with tx := as } e ∧
      Turns [.host, .engine, .controller, .engine, .controller] s { s with
        status := { s.status with busy := true }
        eng :=
          { wSla := s.req.sla, wBeg := s.req.buf, wPtr := s.req.buf, wEnd := BitVec.ofNat 32 (transferOperands s).limit,
            wLen := s.req.len, wTstop := s.req.tstop, wFail := false, wWarm := false, es := .wait }
        ctl :=
          { s.ctl with dat := s.req.sla, act := actNone, stat := addressPhase s.req.sla a,
                       con := { s.ctl.con with sta := false, si := true } }
        bus := ⟨.held, addressMode s.req.sla a, false, false⟩
        trace := s.trace ++ [startEvent s.bus.own, .addr s.req.sla a]
        host := { s.host with program := prog }
        env := e
        schedule := sch } := by
  have hes := hi.es_of_not_busy hb
  obtain ⟨hsi, -, -⟩ := hi.quiet (by simp [hes])
  have hsto := hi.sto_of_not_stopWait (by simp [hes])
  obtain ⟨e, hin, hstart⟩ := controllerStep_start (s := { s with
      status := { s.status with busy := true }
      eng :=
        { wSla := s.req.sla, wBeg := s.req.buf, wPtr := s.req.buf, wEnd := BitVec.ofNat 32 (transferOperands s).limit,
          wLen := s.req.len, wTstop := s.req.tstop, wFail := false, wWarm := false, es := .wait }
      ctl := { s.ctl with con := { s.ctl.con with sta := true } }
      host := { s.host with program := prog }
      schedule := .engine :: .controller :: sch })
    (by simp [busRequest, hen, hsi, hsto]) hgo
  have he : e.tx = .reply a :: as := hin.tx.trans htx
  refine ⟨{ e with tx := as }, ⟨rfl, hin.rx, hin.releases⟩, ?_⟩
  rw [show s.trace ++ [startEvent s.bus.own, .addr s.req.sla a] = s.trace ++ [startEvent s.bus.own] ++ [.addr s.req.sla a]
    by simp]
  exact .cons hs hsch (hostStep_transfer (s := { s with schedule := _ }) hb hp hw hlim)
    (.cons hs rfl (engineStep_of_start rfl)
    (.cons hs rfl hstart
    (.cons hs rfl (engineStep_of_startPhase rfl rfl rfl)
    (.cons hs rfl (controllerStep_address (by simp [busRequest, hen, hsto]) rfl rfl he) (.nil _)))))

/-- The turns after TERM's: the STOP and its end, where the trailing stop is on. -/
def stopTurns (tstop : Bool) : List Agent := if tstop then [.controller, .engine] else []

/-- R83, R108 to R110, R129: from TERM on a bus that is held, with a STOP where the trailing stop is on. -/
theorem turns_closing {s : State} {sch : List Agent} (hi : Inv s) (hs : s.faults = []) (hes : s.eng.es = .term)
    (hw : s.eng.wWarm = false) (hown : s.bus.own = .held) (hen : s.ctl.con.en = true)
    (hgo : s.eng.wTstop = true → StopGoes s)
    (hsch : s.schedule = .engine :: (stopTurns s.eng.wTstop ++ sch)) :
    ∃ (sto : Bool) (e : BusEnv),
      Turns (.engine :: stopTurns s.eng.wTstop) s { s with
        status := { s.status with fail := s.eng.wFail, busy := false }
        eng := { s.eng with es := .idle }
        ctl := { s.ctl with con := { s.ctl.con with sto := sto } }
        bus := if s.eng.wTstop then freeBus else s.bus
        trace := s.trace ++ stopEvents s.eng.wTstop
        env := e
        schedule := sch } := by
  obtain ⟨hsi, -, -⟩ := hi.quiet (by simp [hes])
  cases hts : s.eng.wTstop with
  | false =>
    rw [hts] at hsch
    refine ⟨s.ctl.con.sto, s.env, .cons hs hsch (engineStep_of_term_end hes hts hw) ?_⟩
    rw [show s.trace ++ stopEvents false = s.trace from List.append_nil _]
    exact .nil _
  | true =>
    rw [hts] at hsch
    obtain ⟨e, hstop⟩ := controllerStep_stop
      (s := { s with
        eng := { s.eng with es := .stopWait }
        ctl := { s.ctl with con := { s.ctl.con with sto := true } }
        schedule := .engine :: sch })
      (by simp [busRequest, hen, hsi]) hown (hgo hts)
    exact ⟨false, e, .cons hs hsch (engineStep_of_term_stop hes hts) (.cons hs rfl hstop
      (.cons hs rfl (engineStep_of_stopWait rfl rfl hw) (.nil _)))⟩

/-! ### A phase with bytes to move -/

/-- A phase of a transfer is reported, and the bytes that are left have their place in MEM (R47). -/
structure Pending (s : State) : Prop where
  inv : Inv s
  faults : s.faults = []
  si : s.ctl.con.si = true
  room : windowExists s s.eng.wPtr.toNat s.eng.wLen.toNat

section
variable {s : State} (h : Pending s)
include h

/-- R49, R50, R115: a byte that is left may be read and written. -/
theorem Pending.accessible (h0 : s.eng.wLen ≠ 0) :
    inWindow s s.eng.wPtr = true ∧ inMem s s.eng.wPtr = true := by
  have : s.eng.wLen.toNat ≠ 0 := fun hn => h0 (BitVec.eq_of_toNat_eq hn)
  exact ⟨h.inv.progress.inWindow h0, h.room _ le_rfl (by omega)⟩

/-- The turns that move one byte leave the room for the others. -/
theorem Pending.next {t : State} {l : List Agent} (h0 : s.eng.wLen ≠ 0) (ht : Turns l s t) (hs : t.faults = s.faults)
    (hsi : t.ctl.con.si = true) (hmap : t.memMap = s.memMap) (hptr : t.eng.wPtr = s.eng.wPtr + 1)
    (hlen : t.eng.wLen = lengthAfterByte s) : Pending t := by
  refine ⟨ht.inv h.inv, hs.trans h.faults, hsi, fun a h1 h2 => ?_⟩
  have hp := toNat_succ_of_lt (inWindow_iff.1 (h.accessible h0).1).2
  have hl := lengthAfterByte_toNat h0
  rw [hptr, hp] at h1 h2
  rw [hlen] at h2
  rw [inMem, hmap]
  exact h.room a (by omega) (by omega)

theorem Pending.sto : s.ctl.con.sto = false := h.inv.sto_of_not_stopWait (by simp [h.inv.es_of_si h.si])

/-- R98, R100, R123: the next byte of the buffer is put on the bus and answered. -/
theorem Pending.turns_sendByte {sch : List Agent} {a : Ack} {as : List TxAnswer}
    (hstat : s.ctl.stat = 0x18 ∨ s.ctl.stat = 0x28) (h0 : s.eng.wLen ≠ 0) (htx : s.env.tx = .reply a :: as)
    (hsch : s.schedule = .engine :: .controller :: sch) :
    Turns [.engine, .controller] s { s with
      eng := { s.eng with wPtr := s.eng.wPtr + 1, wLen := lengthAfterByte s, es := .wait }
      ctl :=
        { s.ctl with dat := Memory.read s.mem s.eng.wPtr.toNat, act := actNone,
                     stat := if a = .ack then 0x28 else 0x30, con := { s.ctl.con with si := true } }
      trace := s.trace ++ [.txd (Memory.read s.mem s.eng.wPtr.toNat) a]
      env := { s.env with tx := as }
      schedule := sch } := by
  obtain ⟨hown, hfirst, hmode, -⟩ := h.inv.writing h.si hstat
  obtain ⟨-, hen, -⟩ := h.inv.siOnly h.si
  have hsta := h.inv.sta_of_bus h.si (bus_ne_startedBus hfirst)
  obtain ⟨hw, hm⟩ := h.accessible h0
  have hturn := (engineStep_of_writeAcked (s := { s with schedule := .controller :: sch }) (h.inv.es_of_si h.si) h.si
    hstat).trans (transmitNext_of_accessible h0 hw hm)
  exact .cons h.faults hsch hturn (.cons h.faults rfl
    (controllerStep_data (by simp [busRequest, hen, h.sto, hsta, actTx]) hown hfirst hmode htx) (.nil _))

/-- R98, R100: with no byte left, the loop is done. -/
theorem Pending.turns_sendDone {sch : List Agent} (hstat : s.ctl.stat = 0x18 ∨ s.ctl.stat = 0x28)
    (h0 : s.eng.wLen = 0) (hsch : s.schedule = .engine :: sch) :
    Turns [.engine] s { s with
      eng := { s.eng with es := .term }
      ctl := { s.ctl with act := actNone, stat := noPhase, con := { s.ctl.con with si := false } }
      schedule := sch } :=
  .cons h.faults hsch
    ((engineStep_of_writeAcked (s := { s with schedule := sch }) (h.inv.es_of_si h.si) h.si hstat).trans
      (transmitNext_of_no_length h0)) (.nil _)

/-- R105, R106, R125: the received byte is stored, with AA clear for the last one to come, and the next one arrives. -/
theorem Pending.turns_receiveByte {sch : List Agent} {b : Byte} {rs : List RxAnswer} {aa : Bool}
    (hstat : s.ctl.stat = 0x50 ∨ s.ctl.stat = 0x58) (h0 : s.eng.wLen ≠ 0) (hn : lengthAfterByte s ≠ 0)
    (haa : (if lengthAfterByte s = 1 then false else s.ctl.con.aa) = aa) (hrx : s.env.rx = .byte b :: rs)
    (hsch : s.schedule = .engine :: .controller :: sch) :
    Turns [.engine, .controller] s { s with
      mem := Memory.write s.mem s.eng.wPtr.toNat s.ctl.dat
      eng := { s.eng with wPtr := s.eng.wPtr + 1, wLen := lengthAfterByte s, es := .wait }
      ctl :=
        { s.ctl with dat := b, act := actNone, stat := if aa then 0x50 else 0x58,
                     con := { s.ctl.con with aa := aa, si := true } }
      bus := { s.bus with sdrv := aa }
      trace := s.trace ++ [.rxd b (if aa then .ack else .nack)]
      env := { s.env with rx := rs }
      schedule := sch } := by
  obtain ⟨hown, hfirst, hmode, -⟩ := h.inv.reading h.si (.inr hstat)
  obtain ⟨-, hen, -⟩ := h.inv.siOnly h.si
  have hsta := h.inv.sta_of_bus h.si (bus_ne_startedBus hfirst)
  obtain ⟨hw, hm⟩ := h.accessible h0
  have hturn := (engineStep_of_dataRead (s := { s with schedule := .controller :: sch }) (h.inv.es_of_si h.si) h.si
    hstat).trans (storeReceived_of_more h0 hw hm hn haa)
  exact .cons h.faults hsch hturn (.cons h.faults rfl
    (controllerStep_receive (by simp [busRequest, hen, h.sto, hsta, actTx, actRx]) hown hfirst hmode rfl hrx) (.nil _))

/-- R105, R106: the last byte is stored, and the loop is done. -/
theorem Pending.turns_receiveDone {sch : List Agent} (hstat : s.ctl.stat = 0x50 ∨ s.ctl.stat = 0x58)
    (h0 : s.eng.wLen = 1) (hsch : s.schedule = .engine :: sch) :
    Turns [.engine] s { s with
      mem := Memory.write s.mem s.eng.wPtr.toNat s.ctl.dat
      eng := { s.eng with wPtr := s.eng.wPtr + 1, wLen := 0, es := .term }
      ctl := { s.ctl with act := actNone, stat := noPhase, con := { s.ctl.con with si := false } }
      schedule := sch } := by
  have hne : s.eng.wLen ≠ 0 := by simp [h0]
  have hn : lengthAfterByte s = 0 := by simp [lengthAfterByte, h0]
  obtain ⟨hw, hm⟩ := h.accessible hne
  exact .cons h.faults hsch
    ((engineStep_of_dataRead (s := { s with schedule := sch }) (h.inv.es_of_si h.si) h.si hstat).trans
      (storeReceived_of_last hne hw hm hn)) (.nil _)

/-- R103, R125: the first byte of a read is asked for, and arrives. -/
theorem Pending.turns_receiveFirst {sch : List Agent} {b : Byte} {rs : List RxAnswer} (hstat : s.ctl.stat = 0x40)
    (hrx : s.env.rx = .byte b :: rs) (hsch : s.schedule = .engine :: .controller :: sch) :
    Turns [.engine, .controller] s { s with
      eng := { s.eng with es := .wait }
      ctl :=
        { s.ctl with dat := b, act := actNone, stat := 0x50, con := { s.ctl.con with aa := true, si := true } }
      bus := { s.bus with sdrv := true }
      trace := s.trace ++ [.rxd b .ack]
      env := { s.env with rx := rs }
      schedule := sch } := by
  obtain ⟨hown, hfirst, hmode, -⟩ := h.inv.reading h.si (.inl hstat)
  obtain ⟨-, hen, -⟩ := h.inv.siOnly h.si
  have hsta := h.inv.sta_of_bus h.si (bus_ne_startedBus hfirst)
  exact .cons h.faults hsch
    (engineStep_of_addressReadAcked (s := { s with schedule := .controller :: sch }) (h.inv.es_of_si h.si) h.si hstat)
    (.cons h.faults rfl
      (controllerStep_receive (aa := true) (by simp [busRequest, hen, h.sto, hsta, actTx, actRx]) hown hfirst hmode rfl
        hrx) (.nil _))

end

/-! ### The bytes of a write -/

theorem writeEvents_cons (m : Memory) (base k : Nat) :
    writeEvents m base (k + 1) = .txd (Memory.read m base) .ack :: writeEvents m (base + 1) k := by
  simp [writeEvents, List.range_succ_eq_map, Function.comp_def, Nat.add_assoc, Nat.add_comm 1]

/-- The turns of `n` data bytes. -/
def byteTurns (n : Nat) : List Agent := (List.replicate n [Agent.engine, .controller]).flatten

theorem byteTurns_succ (n : Nat) : byteTurns (n + 1) = .engine :: .controller :: byteTurns n := by
  simp [byteTurns, List.replicate_succ]

/-- R98, R100, R113: the bytes that are left of a write, each ACKed, up to TERM. -/
theorem Pending.turns_write {n : Nat} {s : State} {sch : List Agent} {as : List TxAnswer} (h : Pending s)
    (hstat : s.ctl.stat = 0x18 ∨ s.ctl.stat = 0x28) (hlen : s.eng.wLen.toNat = n)
    (htx : s.env.tx = List.replicate n (.reply .ack) ++ as) (hsch : s.schedule = byteTurns n ++ .engine :: sch) :
    ∃ (p l : Word) (d : Byte), Turns (byteTurns n ++ [.engine]) s { s with
      eng := { s.eng with wPtr := p, wLen := l, es := .term }
      ctl := { s.ctl with dat := d, act := actNone, stat := noPhase, con := { s.ctl.con with si := false } }
      trace := s.trace ++ writeEvents s.mem s.eng.wPtr.toNat n
      env := { s.env with tx := as }
      schedule := sch } := by
  induction n generalizing s with
  | zero =>
    have h0 : s.eng.wLen = 0 := BitVec.eq_of_toNat_eq hlen
    obtain rfl : s.env.tx = as := htx
    refine ⟨s.eng.wPtr, s.eng.wLen, s.ctl.dat, ?_⟩
    rw [show s.trace ++ writeEvents s.mem s.eng.wPtr.toNat 0 = s.trace from List.append_nil _]
    exact h.turns_sendDone hstat h0 hsch
  | succ n ih =>
    have h0 : s.eng.wLen ≠ 0 := by intro h0; simp [h0] at hlen
    have hcount := lengthAfterByte_toNat h0
    have hptr := toNat_succ_of_lt (inWindow_iff.1 (h.accessible h0).1).2
    rw [byteTurns_succ] at hsch ⊢
    have hbyte := h.turns_sendByte hstat h0 htx hsch
    obtain ⟨p, l, d, hrest⟩ := ih (h.next h0 hbyte rfl rfl rfl rfl rfl) (.inr rfl) (by dsimp only; omega) rfl rfl
    have htrace : s.trace ++ writeEvents s.mem s.eng.wPtr.toNat (n + 1) =
        s.trace ++ [.txd (Memory.read s.mem s.eng.wPtr.toNat) .ack] ++ writeEvents s.mem (s.eng.wPtr + 1).toNat n := by
      rw [writeEvents_cons, hptr, List.append_cons]
    refine ⟨p, l, d, ?_⟩
    rw [htrace]
    exact hbyte.append hrest

end Sys2Proof.Machine
end

section
/-! Whole transfers from an idle block to an idle block (R51, R83, R87, R88, R113, R114). -/

namespace Sys2Proof.Machine

/-! ### The bytes of a read -/

/-- The bytes stand in `m` from address `a` on, and every other byte is as it was in `m₀` (R51). -/
structure Stored (m₀ m : Memory) (a : Nat) (bytes : List Byte) : Prop where
  stored : ∀ i (h : i < bytes.length), Memory.read m (a + i) = bytes[i]
  other : ∀ c, c < a ∨ a + bytes.length ≤ c → Memory.read m c = Memory.read m₀ c

theorem Stored.nil (m : Memory) (a : Nat) : Stored m m a [] := ⟨nofun, fun _ _ => rfl⟩

theorem Stored.cons {m₀ m : Memory} {a : Nat} {b : Byte} {bytes : List Byte} (hm : Memory.wf m₀)
    (h : Stored (Memory.write m₀ a b) m (a + 1) bytes) : Stored m₀ m a (b :: bytes) := by
  refine ⟨fun i hi => ?_, fun c hc => ?_⟩
  · cases i with
    | zero =>
      rw [Nat.add_zero, h.other a (.inl (Nat.lt_succ_self a)), Memory.read_write_same hm.1]
      rfl
    | succ i =>
      exact (congrArg (Memory.read m) (Nat.add_right_comm a i 1)).trans (h.stored i (Nat.lt_of_succ_lt_succ hi))
  · rw [List.length_cons] at hc
    rw [h.other c (by omega), Memory.read_write_other _ _ _ (by omega)]

/-- The events of the bytes of a read after its first: the last is NACKed, the others are ACKed (R114). -/
def laterEvents (bytes : List Byte) : List BusEvent :=
  bytes.mapIdx fun i b => .rxd b (if i + 1 = bytes.length then .nack else .ack)

theorem laterEvents_cons (b : Byte) (bytes : List Byte) :
    laterEvents (b :: bytes) = .rxd b (if !bytes.isEmpty then .ack else .nack) :: laterEvents bytes := by
  cases bytes <;> simp [laterEvents]

theorem readEvents_cons (b : Byte) (bytes : List Byte) : readEvents (b :: bytes) = .rxd b .ack :: laterEvents bytes := by
  have hack (i : Nat) : readAck (bytes.length + 1) (i + 1) = if i + 1 = bytes.length then .nack else .ack := by
    simp only [readAck]
    exact if_congr (by omega) rfl rfl
  simp [readEvents, readAck_first, laterEvents, hack]

/-- R105, R106, R114: the bytes that are left of a read once its first has arrived, up to TERM. AA and SDRV keep their
values after a single byte, and are clear after more. -/
theorem Pending.turns_read {bytes : List Byte} {s : State} {sch : List Agent} {rs : List RxAnswer} (h : Pending s)
    (hstat : s.ctl.stat = 0x50 ∨ s.ctl.stat = 0x58) (hlen : s.eng.wLen.toNat = bytes.length + 1)
    (haa : bytes ≠ [] → s.ctl.con.aa = true) (hrx : s.env.rx = bytes.map RxAnswer.byte ++ rs)
    (hsch : s.schedule = byteTurns bytes.length ++ .engine :: sch) :
    ∃ (m : Memory) (p l : Word) (d : Byte), Stored s.mem m s.eng.wPtr.toNat (s.ctl.dat :: bytes) ∧
      Turns (byteTurns bytes.length ++ [.engine]) s { s with
        mem := m
        eng := { s.eng with wPtr := p, wLen := l, es := .term }
        ctl :=
          { s.ctl with dat := d, act := actNone, stat := noPhase,
                       con := { s.ctl.con with aa := bytes.isEmpty && s.ctl.con.aa, si := false } }
        bus := { s.bus with sdrv := bytes.isEmpty && s.bus.sdrv }
        trace := s.trace ++ laterEvents bytes
        env := { s.env with rx := rs }
        schedule := sch } := by
  induction bytes generalizing s with
  | nil =>
    have h1 : s.eng.wLen = 1 := BitVec.eq_of_toNat_eq hlen
    obtain rfl : s.env.rx = rs := hrx
    refine ⟨_, s.eng.wPtr + 1, 0, s.ctl.dat, .cons h.inv.memory (.nil _ _), ?_⟩
    rw [show s.trace ++ laterEvents [] = s.trace from List.append_nil _]
    exact h.turns_receiveDone hstat h1 hsch
  | cons b bytes ih =>
    have h0 : s.eng.wLen ≠ 0 := by intro h0; simp [h0] at hlen
    have hcount := lengthAfterByte_toNat h0
    have hptr := toNat_succ_of_lt (inWindow_iff.1 (h.accessible h0).1).2
    have hleft : (lengthAfterByte s).toNat = bytes.length + 1 := by rw [List.length_cons] at hlen; omega
    have hn : lengthAfterByte s ≠ 0 := by intro hn; simp [hn] at hleft
    have haa' : (if lengthAfterByte s = 1 then false else s.ctl.con.aa) = !bytes.isEmpty := by
      have hone : lengthAfterByte s = 1 ↔ bytes = [] := by
        rw [← BitVec.toNat_inj, hleft, ← List.length_eq_zero_iff]
        exact Nat.succ_inj
      rw [haa (by simp), if_congr hone rfl rfl]
      cases bytes <;> simp
    rw [List.length_cons, byteTurns_succ] at hsch ⊢
    have hbyte := h.turns_receiveByte hstat h0 hn haa' hrx hsch
    obtain ⟨m, p, l, d, hstored, hrest⟩ := ih (h.next h0 hbyte rfl rfl rfl rfl rfl)
      (by cases bytes <;> simp) hleft (by cases bytes <;> simp) rfl rfl
    dsimp only at hstored
    rw [hptr] at hstored
    refine ⟨m, p, l, d, hstored.cons h.inv.memory, ?_⟩
    have htrace : s.trace ++ laterEvents (b :: bytes) =
        s.trace ++ [.rxd b (if !bytes.isEmpty then .ack else .nack)] ++ laterEvents bytes := by
      rw [laterEvents_cons, List.append_cons]
    dsimp only at hrest
    rw [Bool.and_not_self] at hrest
    rw [htrace]
    exact hbyte.append hrest

/-! ### From idle to idle -/

theorem transferSchedule_eq (n : Nat) (tstop : Bool) :
    transferSchedule n tstop = [.host, .engine, .controller, .engine, .controller] ++
      ((byteTurns n ++ [.engine]) ++ (.engine :: stopTurns tstop)) := by
  simp [transferSchedule, byteTurns, stopTurns]

/-- Settles O54: the opening, the bytes and the end, which finds SDRV = 0. -/
theorem writeTransferRunsToIdle : Obligations.WriteTransferRunsToIdle := by
  intro s w prog sch gs as n hs hb hi hen hp hw hlen hlim hroom hdir hsch htx hgo
  subst hlen
  have hstart : StartGoes s := hgo.imp (.imp_right (⟨_, ·⟩)) (.imp_right (.imp_right (⟨_, ·⟩)))
  rw [transferSchedule_eq] at hsch ⊢
  rw [List.append_assoc, List.append_assoc, List.append_assoc] at hsch
  obtain ⟨e, hin, hopen⟩ := turns_opening hi hs hb hen hp hw hlim hstart htx hsch
  have hpend : Pending _ := ⟨hopen.inv hi, hs, rfl, hroom⟩
  obtain ⟨p, l, d, hdata⟩ := hpend.turns_write (.inl (by simp [addressPhase, hdir])) rfl hin.tx rfl
  have hterm := hdata.inv hpend.inv
  obtain ⟨sto, e', hclose⟩ := turns_closing hterm hs rfl rfl rfl hen (fun _ => .inl rfl) rfl
  have hl : l = 0 := hterm.ended (.inl rfl) rfl
  have hptr : p = BitVec.ofNat 32 (transferOperands s).limit := hterm.progress.wPtr_eq_wEnd hl
  refine ⟨_, (hopen.append (hdata.append hclose)).run, rfl, rfl, hl, ?_, rfl, rfl, hs, rfl, ?_, rfl⟩
  · rw [hptr]
    exact Nat.mod_eq_of_lt hlim
  · cases s.req.tstop <;> rfl

/-- Settles O55: the opening, the first byte, the bytes that are left and the end. SDRV = 1 is met at most twice: by a
repeated START, and by a STOP after a single byte. -/
theorem readTransferRunsToIdle : Obligations.ReadTransferRunsToIdle := by
  intro s w prog sch gs as bytes rs rels n hs hb hi hen hp hw hbytes hn hlen hlim hroom hdir hsch htx hrx hown hrel
  subst hbytes
  obtain ⟨b, bytes, rfl⟩ := List.exists_cons_of_length_pos hn
  have hstart : StartGoes s :=
    hown.imp (.imp_right (⟨_, ·⟩)) fun hheld => ⟨hheld, hrel.imp And.left (⟨_, ·⟩)⟩
  rw [transferSchedule_eq, show byteTurns (b :: bytes).length = _ from byteTurns_succ bytes.length] at hsch ⊢
  rw [List.append_assoc, List.append_assoc, List.append_assoc] at hsch
  have hfit : s.req.buf.toNat + s.req.len.toNat < 2 ^ 32 := hlen ▸ hlim
  obtain ⟨e, hin, hopen⟩ := turns_opening hi hs hb hen hp hw hfit hstart htx hsch
  have hpend : Pending _ := ⟨hopen.inv hi, hs, rfl, hlen ▸ hroom⟩
  have hfirst := hpend.turns_receiveFirst (by simp [addressPhase, hdir]) (hin.rx.trans hrx) rfl
  have hpend' : Pending _ := ⟨hfirst.inv hpend.inv, hs, rfl, hlen ▸ hroom⟩
  obtain ⟨m, p, l, d, hstored, hdata⟩ := hpend'.turns_read (.inl rfl) hlen (fun _ => rfl) rfl rfl
  have hterm := hdata.inv hpend'.inv
  have hstop : s.req.tstop = true → (bytes.isEmpty && true) = false ∨ ∃ rels, e.releases = true :: rels := by
    intro hts
    rcases hrel with ⟨-, hmany⟩ | hrel
    · left
      cases bytes <;> simp [hts] at hmany ⊢
    · exact .inr (hin.releases.elim (⟨_, ·.trans hrel⟩) (⟨_, ·.trans (congrArg List.tail hrel)⟩))
  obtain ⟨sto, e', hclose⟩ := turns_closing hterm hs rfl rfl rfl hen hstop rfl
  have hl : l = 0 := hterm.ended (.inl rfl) rfl
  have hptr : p = BitVec.ofNat 32 (transferOperands s).limit := hterm.progress.wPtr_eq_wEnd hl
  have hsingle : (bytes.isEmpty && true) = decide (bytes.length + 1 = 1) := by cases bytes <;> simp
  refine ⟨_, (hopen.append ((hfirst.append hdata).append hclose)).run, rfl, rfl, hl, ?_, rfl, hs, rfl, hsingle, ?_,
    hstored.stored, hstored.other, ?_⟩
  · rw [hptr, ← hlen]
    exact Nat.mod_eq_of_lt hfit
  · cases s.req.tstop
    · simp [addressMode, hdir, hsingle]
    · rfl
  · simp [readEvents_cons]

end Sys2Proof.Machine
end

section
/-! The codes of the instructions, both ways (R61, R66, R69, R72), and the commands by BUSY and `op` (R66, R71, R76). -/

namespace Sys2Proof.Machine

/-! ### The commands by their `op` -/

theorem decodeCmd_nop {w : Word} (h : w.toNat % 4 = 0) : decodeCmd w = .nop (cmdIgnored w) := by
  simp [decodeCmd, cmdOp_toNat, h]

theorem decodeCmd_configure {w : Word} (h : w.toNat % 4 = 1) : decodeCmd w = .configure (cmdIgnored w) := by
  simp [decodeCmd, cmdOp_toNat, h]

theorem decodeCmd_cmdReserved {w : Word} (h : w.toNat % 4 = 3) : decodeCmd w = .cmdReserved (cmdIgnored w) := by
  simp [decodeCmd, cmdOp_toNat, h]

/-- R66: the four values of `op`. -/
theorem op_cases (w : Word) : w.toNat % 4 = 0 ∨ w.toNat % 4 = 1 ∨ w.toNat % 4 = 2 ∨ w.toNat % 4 = 3 := by omega

/-- R61: a word is its ignored bits and its `op`. -/
theorem cmdWord_of_op {w : Word} {op : BitVec 2} (h : w.toNat % 4 = op.toNat) : cmdWord (cmdIgnored w) op = w := by
  have hop : cmdOp w = op := BitVec.eq_of_toNat_eq ((cmdOp_toNat w).trans h)
  rw [← hop, cmdWord_fields]

/-- R61: `op` is the two low bits. -/
theorem cmdWord_toNat (x : BitVec 30) (op : BitVec 2) : (cmdWord x op).toNat = 4 * x.toNat + op.toNat := by
  rw [cmdWord, BitVec.toNat_append, Nat.shiftLeft_eq, Nat.mul_comm, ← Nat.two_pow_add_eq_or_of_lt op.isLt]

/-! ### Decoding and encoding -/

/-- R61, R69: no field of an instruction is lost in its code. -/
theorem decode_encode (i : Instr) : decode (encode i) = .instr i := by
  cases i with
  | nop x | configure x | transfer x | cmdReserved x => simp [encode, decode, decodeCmd]
  | _ => rfl

theorem encode_decodeCmd (w : Word) : encode (decodeCmd w) = .cmd w := by
  rcases op_cases w with h | h | h | h
  · rw [decodeCmd_nop h, encode, cmdWord_of_op h]
  · rw [decodeCmd_configure h, encode, cmdWord_of_op h]
  · rw [decodeCmd_transfer h, encode, cmdWord_of_op h]
  · rw [decodeCmd_cmdReserved h, encode, cmdWord_of_op h]

/-- R69: a phase code matches one row of R64's table in all eight bits. -/
theorem encode_of_decodePhase {c : Byte} {i : Instr} (h : decodePhase c = .instr i) : encode i = .phase c := by
  rcases decodePhase_cases h with ⟨rfl, rfl⟩ | ⟨rfl, rfl⟩ | ⟨rfl, rfl⟩ | ⟨rfl, rfl⟩ | ⟨rfl, rfl⟩ | ⟨rfl, rfl⟩ |
    ⟨rfl, rfl⟩ | ⟨rfl, rfl⟩ | ⟨rfl, rfl⟩ | ⟨rfl, rfl⟩ | ⟨rfl, rfl⟩ <;> rfl

/-- Settles O1: back from a code by the place it is decoded at. -/
theorem decodeAndEncodeAgree : Obligations.DecodeAndEncodeAgree := by
  refine ⟨fun i _ => decode_encode i, fun w i h => ?_⟩
  cases w with
  | cmd w =>
    have hi : decodeCmd w = i := Decoded.instr.inj h
    rw [← hi, encode_decodeCmd]
  | phase c => exact encode_of_decodePhase h

/-- Settles O2: all but the reserved codes are the codes of their instructions. -/
theorem specCodesDecode : Obligations.SpecCodesDecode :=
  ⟨decode_encode (.nop 0), decode_encode (.nop 1), decode_encode (.configure 0), decode_encode (.configure 0x3FFFFFFF),
    decode_encode (.transfer 0), decode_encode (.cmdReserved 0), decode_encode .started, decode_encode .repeatStarted,
    decode_encode .addressWriteAcked, decode_encode .addressWriteNacked, decode_encode .dataWriteAcked,
    decode_encode .dataWriteNacked, decode_encode .arbitrationLost, decode_encode .addressReadAcked,
    decode_encode .addressReadNacked, decode_encode .dataReadAcked, decode_encode .dataReadNacked, rfl, rfl, rfl⟩

/-! ### BUSY and `op` -/

theorem whenIdle_of_busy {s : State} (k : State → Result State) (hb : s.status.busy = true) :
    whenIdle s k = .fault (.hostBusyViolation 0x00) := by
  rw [whenIdle, if_pos hb, Reg.offset]

/-- R76: every command stops at BUSY. -/
theorem exec_command_of_busy {s : State} (w : Word) (hb : s.status.busy = true) :
    exec (decodeCmd w) s = .fault (.hostBusyViolation 0x00) := by
  rcases decodeCmd_cases w with h | h | h | h <;> rw [h, exec]
  · rw [execNop, whenIdle_of_busy _ hb]
  · rw [execConfigure, whenIdle_of_busy _ hb]
  · rw [execTransfer, whenIdle_of_busy _ hb]
  · rw [execCmdReserved, whenIdle_of_busy _ hb]

/-- R66: NOP, CONFIGURE and TRANSFER do not read the ignored bits. -/
theorem exec_command_congr {v w : Word} (hop : v.toNat % 4 = w.toNat % 4) (hw : w.toNat % 4 ≠ 3) (s : State) :
    exec (decodeCmd v) s = exec (decodeCmd w) s := by
  rcases op_cases w with h | h | h | h
  · rw [decodeCmd_nop h, decodeCmd_nop (hop.trans h)]; rfl
  · rw [decodeCmd_configure h, decodeCmd_configure (hop.trans h)]; rfl
  · rw [decodeCmd_transfer h, decodeCmd_transfer (hop.trans h)]; rfl
  · exact absurd h hw

/-- Settles O11: the host's turn is the command, which stops at BUSY and else goes by its `op`. -/
theorem commandWriteReadsBusyAndOp : Obligations.CommandWriteReadsBusyAndOp := by
  refine ⟨fun s w rest hb hp => ⟨?_, fun i hd => ?_⟩, fun s v w rest hop hw => ?_⟩
  · rw [hostStep_command hp]
    exact exec_command_of_busy w hb
  · have hi : decodeCmd w = i := Decoded.instr.inj hd
    rw [← hi, exec_command_of_busy w hb]
  · rw [hostStep_command rfl, hostStep_command rfl]
    exact exec_command_congr hop hw _

/-- R89: NOP on an idle block. -/
theorem exec_nop_of_idle {s : State} (x : BitVec 30) (hb : s.status.busy = false) : exec (.nop x) s = .next s := by
  rw [exec, execNop, whenIdle_of_idle _ hb]

/-- R71, R146: the reserved command on an idle block stops with its own code. -/
theorem exec_cmdReserved_of_idle {s : State} (x : BitVec 30) (hb : s.status.busy = false) :
    exec (.cmdReserved x) s = .fault (.illegalCommand (cmdWord x 3)) := by
  rw [exec, execCmdReserved, whenIdle_of_idle _ hb]

/-- Settles O20: the host's turn is the command that `op` names, and the fault's word is the one written. -/
theorem reservedCommandStops : Obligations.ReservedCommandStops := by
  intro s w rest hb hp
  refine ⟨fun hop => ?_, fun hop => ?_, fun x => exec_cmdReserved_of_idle x hb, fun x => cmdWord_toNat x 3⟩
  · have hw : cmdWord (cmdIgnored w) 3 = w := cmdWord_of_op hop
    rw [hostStep_command hp, decodeCmd_cmdReserved hop, exec_cmdReserved_of_idle (s := popHost s) _ hb, hw]
  · rw [hostStep_command hp, decodeCmd_nop hop, exec_nop_of_idle (s := popHost s) _ hb, popHost_of_program hp]

end Sys2Proof.Machine
end

section
/-! The commands on an idle block (R78, R89, R90), and a command on a disabled controller (R86, R132). -/

namespace Sys2Proof.Machine

/-! ### NOP -/

/-- Settles O15: NOP by BUSY. -/
theorem nopChangesNothing : Obligations.NopChangesNothing :=
  fun x _ => ⟨exec_nop_of_idle x, whenIdle_of_busy _⟩

/-! ### CONFIGURE's divisor and its writes -/

/-- R78: the two floor divisions are one by `2 * B`. -/
theorem halfPeriod_eq (p b : Nat) : halfPeriod p b = p / (2 * b) := by
  rw [halfPeriod, Nat.div_div_eq_div_mul, Nat.mul_comm]

/-- Settles O17: `b * (2 * d)` is the multiple of `2 * b` that the division rounds `p` down to. -/
theorem divisorKeepsTheBusAtOrAboveTarget : Obligations.DivisorKeepsTheBusAtOrAboveTarget := by
  intro p b d h
  obtain ⟨-, hd, hpos, hlt⟩ := divisor_eq_ok.1 h
  rw [halfPeriod_eq] at hd
  have hmul : b * (2 * d) = 2 * b * (p / (2 * b)) := by rw [hd, Nat.mul_left_comm, Nat.mul_assoc]
  refine ⟨hd, hpos, hlt, ?_, ?_⟩ <;> rw [hmul]
  · exact Nat.mul_div_le p (2 * b)
  · exact Nat.mul_div_eq_iff_dvd

/-- Settles O18: both issue steps write the same divisor, all of the controller but DAT, and all of the engine. -/
theorem configureIsIdempotent : Obligations.ConfigureIsIdempotent := by
  intro x y s t s' t' hp hb hdat hs ht
  obtain ⟨-, -, d, hd, rfl⟩ := execConfigure_next (x := x) hs
  obtain ⟨-, -, d', hd', rfl⟩ := execConfigure_next (x := y) ht
  have hdd : d' = d := by
    rw [inputClockHz, targetBusHz, ← hp, ← hb] at hd'
    exact Except.ok.inj (hd'.symm.trans hd)
  subst hdd
  refine ⟨?_, rfl, rfl, rfl⟩
  simp only [issueTransfer_ctl, configureController, hdat]

/-! ### A disabled controller -/

/-- R91: with no phase reported, the engine waits. -/
theorem engineStep_of_waiting {s : State} (hes : s.eng.es = .wait) (hsi : s.ctl.con.si = false) :
    engineStep s = .next s := by
  simp [engineStep, engineEnabled, hes, hsi]

/-- Settles O52: a command would stop at BUSY, the engine waits for SI, and the controller has no request. -/
theorem transferBeforeConfigureHangs : Obligations.TransferBeforeConfigureHangs := by
  intro s t hb hes hsi hen hst
  obtain ⟨-, hturn⟩ := step_next hst
  have hframe : HostFrame (takeAgent s).2 t := by
    cases ha : (takeAgent s).1 <;> rw [ha] at hturn
    · refine (hostStep_command_or_frame hturn).resolve_left ?_
      rintro ⟨w, rest, -, hw⟩
      rw [exec_command_of_busy w (by simp [hb])] at hw
      cases hw
    · cases (engineStep_of_waiting (by simp [hes]) (by simp [hsi])).symm.trans hturn
      exact hostFrame_with _ _ _ _
    · have hnone : busRequest (takeAgent s).2 = .nothing := by simp [busRequest, hen]
      cases (controllerStep_of_nothing hnone).1.symm.trans hturn
      exact hostFrame_with _ _ _ _
  simp [hframe.status, hframe.eng, hframe.ctl, hframe.bus, hframe.trace]

end Sys2Proof.Machine
end

section
/-! Whole commands that may fail at their address byte: a TRANSFER that does (R84, R95, R141, R143), and CONFIGURE's
warm-up, whatever it is answered (R77, R80, R110). -/

namespace Sys2Proof.Machine

/-! ### Turns of a failure -/

/-- R99, R101, R102, R104. -/
theorem engineStep_of_failure {s : State} (hes : s.eng.es = .wait) (hsi : s.ctl.con.si = true)
    (hstat : s.ctl.stat = 0x20 ∨ s.ctl.stat = 0x30 ∨ s.ctl.stat = 0x38 ∨ s.ctl.stat = 0x48) :
    engineStep s = .next { s with
      eng := { s.eng with wTstop := true, wFail := true, es := .term }
      ctl := { s.ctl with act := actNone, stat := noPhase, con := { s.ctl.con with si := false } } } := by
  rcases hstat with hstat | hstat | hstat | hstat
  · exact engineStep_phase (i := .addressWriteNacked) hes hsi (by rw [hstat]; rfl)
  · exact engineStep_phase (i := .dataWriteNacked) hes hsi (by rw [hstat]; rfl)
  · exact engineStep_phase (i := .arbitrationLost) hes hsi (by rw [hstat]; rfl)
  · exact engineStep_phase (i := .addressReadNacked) hes hsi (by rw [hstat]; rfl)

/-- R64, R122: the phase of an address byte that is not acknowledged. -/
theorem addressPhase_nack (b : Byte) : addressPhase b .nack = 0x20 ∨ addressPhase b .nack = 0x48 := by
  unfold addressPhase
  cases slaDir b
  · exact .inl rfl
  · exact .inr rfl

/-- Settles O57: the opening, the failure, which turns the trailing stop on, and the end. -/
theorem addressNackForcesTheStop : Obligations.AddressNackForcesTheStop := by
  intro s w prog sch gs as hs hb hi hen hp hw hlim hsch htx hgo
  have hstart : StartGoes s := hgo.imp (.imp_right (⟨_, ·⟩)) (.imp_right (.imp_right (⟨_, ·⟩)))
  obtain ⟨e, -, hopen⟩ := turns_opening hi hs hb hen hp hw hlim hstart htx hsch
  have hfail := hopen.append (.cons hs rfl
    (engineStep_of_failure rfl rfl ((addressPhase_nack s.req.sla).imp_right fun h => .inr (.inr h))) (.nil _))
  obtain ⟨sto, e', hclose⟩ := turns_closing (hfail.inv hi) hs rfl rfl rfl hen (fun _ => .inl rfl) rfl
  refine ⟨_, (hfail.append hclose).run, rfl, rfl, rfl, rfl, rfl, rfl, rfl, rfl, hs, rfl, ?_⟩
  exact List.append_assoc _ _ _

/-! ### The answer to an address byte -/

/-- The phase that the answer to an address byte is reported with (R122, R124). -/
def answerPhase (b : Byte) : TxAnswer → Byte
  | .reply a => addressPhase b a
  | .arb => 0x38

/-- The hidden bus state after the answer to an address byte (R122, R124). -/
def answerBus (b : Byte) (bus : BusState) : TxAnswer → BusState
  | .reply a => { bus with firstTx := false, mode := addressMode b a }
  | .arb => freeBus

/-- The event of the answer to an address byte (R122, R124). -/
def answerEvent (b : Byte) : TxAnswer → BusEvent
  | .reply a => .addr b a
  | .arb => .arbLost

/-- R119, R124: a bus that the answer leaves free has no mode and no pending first byte. -/
theorem answerBus_of_free {b : Byte} {bus : BusState} {a : TxAnswer} (hown : bus.own = .held)
    (hfree : (answerBus b bus a).own = .free) : answerBus b bus a = freeBus := by
  cases a with
  | reply a => cases hown.symm.trans hfree
  | arb => rfl

/-- R42: an answer sets no SDRV. -/
theorem answerBus_sdrv {b : Byte} {bus : BusState} {a : TxAnswer} (h : bus.sdrv = false) :
    (answerBus b bus a).sdrv = false := by
  cases a with
  | reply a => exact h
  | arb => rfl

/-- R122, R124: an address byte is answered, or lost to another master. -/
theorem controllerStep_answer {s : State} {a : TxAnswer} {as : List TxAnswer} (hr : busRequest s = .transmit)
    (hown : s.bus.own = .held) (hfirst : s.bus.firstTx = true) (htx : s.env.tx = a :: as) :
    controllerStep s = .next { s with
      ctl := { s.ctl with act := actNone, stat := answerPhase s.ctl.dat a, con := { s.ctl.con with si := true } }
      bus := answerBus s.ctl.dat s.bus a
      trace := s.trace ++ [answerEvent s.ctl.dat a]
      env := { s.env with tx := as } } := by
  cases a with
  | reply a => exact controllerStep_address hr hown hfirst htx
  | arb =>
    have hmay : mayTransmit s = true := by simp [mayTransmit, hown, hfirst]
    simp only [controllerStep, hr, if_pos hmay, if_pos hfirst, txAddress, askTx, htx]
    rfl

/-! ### The turns of a CONFIGURE -/

/-- R76, R77: the host's turn that writes CONFIGURE to CMD sets up the controller and issues the warm-up. -/
theorem hostStep_configure {s : State} {w : Word} {prog : List HostAccess} {d : Nat} (hb : s.status.busy = false)
    (hown : s.bus.own = .free) (hp : s.host.program = .write .word 0x00 w :: prog) (hw : w.toNat % 4 = 1)
    (hd : divisor (inputClockHz s) (targetBusHz s) = .ok d) :
    hostStep s = .next { s with
      status := { s.status with busy := true }
      eng :=
        { wSla := warmupSla, wBeg := 0, wPtr := 0, wEnd := 0, wLen := 0, wTstop := true, wFail := false, wWarm := true,
          es := .start }
      ctl :=
        { con := ⟨false, false, false, false, true⟩, stat := noPhase, dat := s.ctl.dat, sclh := BitVec.ofNat 16 d,
          scll := BitVec.ofNat 16 d, act := actNone }
      bus := freeBus
      host := { s.host with program := prog } } := by
  rw [hostStep_command hp, decodeCmd_configure hw, exec, popHost_of_program hp,
    execConfigure_of_divisor (s := { s with host := { s.host with program := prog } }) _ hb hown hd]
  rw [freeBus, ← hown]
  rfl

/-- R77, R80: from the CMD write to the warm-up's address byte in DAT. -/
theorem turns_warmupOpening {s : State} {w : Word} {prog : List HostAccess} {sch : List Agent} {gs : List Bool}
    {d : Nat}
    (hs : s.faults = []) (hb : s.status.busy = false) (hown : s.bus.own = .free)
    (hp : s.host.program = .write .word 0x00 w :: prog) (hw : w.toNat % 4 = 1)
    (hd : divisor (inputClockHz s) (targetBusHz s) = .ok d) (hg : s.env.grants = true :: gs)
    (hsch : s.schedule = .host :: .engine :: .controller :: .engine :: sch) :
    ∃ e : BusEnv, e.tx = s.env.tx ∧
      Turns [.host, .engine, .controller, .engine] s { s with
        status := { s.status with busy := true }
        eng :=
          { wSla := warmupSla, wBeg := 0, wPtr := 0, wEnd := 0, wLen := 0, wTstop := true, wFail := false,
            wWarm := true, es := .wait }
        ctl :=
          { con := ⟨false, false, false, false, true⟩, stat := noPhase, dat := warmupSla, sclh := BitVec.ofNat 16 d,
            scll := BitVec.ofNat 16 d, act := actTx }
        bus := startedBus
        trace := s.trace ++ [.start]
        host := { s.host with program := prog }
        env := e
        schedule := sch } := by
  obtain ⟨e, hin, hstart⟩ := controllerStep_start (s := { s with
      status := { s.status with busy := true }
      eng :=
        { wSla := warmupSla, wBeg := 0, wPtr := 0, wEnd := 0, wLen := 0, wTstop := true, wFail := false, wWarm := true,
          es := .wait }
      ctl :=
        { con := ⟨false, false, false, true, true⟩, stat := noPhase, dat := s.ctl.dat, sclh := BitVec.ofNat 16 d,
          scll := BitVec.ofNat 16 d, act := actNone }
      bus := freeBus
      host := { s.host with program := prog }
      schedule := .engine :: sch })
    rfl (.inl ⟨rfl, gs, hg⟩)
  exact ⟨e, hin.tx, .cons hs hsch (hostStep_configure (s := { s with schedule := _ }) hb hown hp hw hd)
    (.cons hs rfl (engineStep_of_start rfl)
    (.cons hs rfl hstart
    (.cons hs rfl (engineStep_of_startPhase (o := .free) rfl rfl rfl) (.nil _))))⟩

/-- R64, R122, R124: the phases that the answer to a write's address byte is reported with. -/
theorem answerPhase_of_write {b : Byte} (a : TxAnswer) (hdir : slaDir b = false) :
    answerPhase b a = 0x18 ∨ answerPhase b a = 0x20 ∨ answerPhase b a = 0x38 := by
  rcases a with (_ | _) | _
  · exact .inl (by simp [answerPhase, addressPhase, hdir])
  · exact .inr (.inl (by simp [answerPhase, addressPhase, hdir]))
  · exact .inr (.inr rfl)

/-- R98, R99, R102: a write of no bytes whose trailing stop is on comes to TERM in each of these phases. -/
theorem engineStep_of_answer {s : State} (hes : s.eng.es = .wait) (hsi : s.ctl.con.si = true)
    (hstat : s.ctl.stat = 0x18 ∨ s.ctl.stat = 0x20 ∨ s.ctl.stat = 0x38) (h0 : s.eng.wLen = 0)
    (hts : s.eng.wTstop = true) :
    ∃ f, engineStep s = .next { s with
      eng := { s.eng with wFail := f, es := .term }
      ctl := { s.ctl with act := actNone, stat := noPhase, con := { s.ctl.con with si := false } } } := by
  rcases hstat with hack | hfail
  · exact ⟨s.eng.wFail, (engineStep_of_writeAcked hes hsi (.inl hack)).trans (transmitNext_of_no_length h0)⟩
  · have hturn := engineStep_of_failure hes hsi (hfail.imp_right fun h => .inr (.inl h))
    exact ⟨true, by simp [hturn, hts]⟩

/-- R98, R99, R102, R122, R124: such a write with its address byte pending comes to TERM whatever that is answered. -/
theorem Turns.answer_to_term {l sch : List Agent} {s t : State} {a : TxAnswer} {as : List TxAnswer} (h : Turns l s t)
    (ht : t.faults = []) (hes : t.eng.es = .wait) (h0 : t.eng.wLen = 0) (hts : t.eng.wTstop = true)
    (hr : busRequest t = .transmit) (hown : t.bus.own = .held) (hfirst : t.bus.firstTx = true)
    (hdir : slaDir t.ctl.dat = false) (htx : t.env.tx = a :: as) (hsch : t.schedule = .controller :: .engine :: sch) :
    ∃ f, Turns (l ++ [.controller, .engine]) s { t with
      eng := { t.eng with wFail := f, es := .term }
      ctl := { t.ctl with act := actNone, stat := noPhase, con := { t.ctl.con with si := false } }
      bus := answerBus t.ctl.dat t.bus a
      trace := t.trace ++ [answerEvent t.ctl.dat a]
      env := { t.env with tx := as }
      schedule := sch } := by
  have hans := controllerStep_answer (s := { t with schedule := .engine :: sch }) hr hown hfirst htx
  obtain ⟨f, hterm⟩ := engineStep_of_answer (s := { t with
      ctl := { t.ctl with act := actNone, stat := answerPhase t.ctl.dat a, con := { t.ctl.con with si := true } }
      bus := answerBus t.ctl.dat t.bus a
      trace := t.trace ++ [answerEvent t.ctl.dat a]
      env := { t.env with tx := as }
      schedule := sch }) hes rfl (answerPhase_of_write a hdir) h0 hts
  exact ⟨f, h.append (.cons ht hsch hans (.cons ht rfl hterm (.nil _)))⟩

/-- R130: a STOP asked for on a free bus is none. -/
theorem controllerStep_stopOnFree {s : State} (hr : busRequest s = .stop) (hown : s.bus.own = .free) :
    controllerStep s = .next (setSto false s) := by
  simp [controllerStep, hr, hown]

/-- R109, R110: the warm-up ends after its STOP. -/
theorem engineStep_of_warmupEnd {s : State} (hes : s.eng.es = .stopWait) (hsto : s.ctl.con.sto = false)
    (hw : s.eng.wWarm = true) :
    engineStep s = .next { s with
      status := { s.status with cfg := true, busy := false }
      eng := { s.eng with wWarm := false, es := .idle } } := by
  simp [engineStep, engineEnabled, hes, hsto, finish, hw]

/-- R129, R130: a STOP asked for is over in one turn, with its event where the bus is held. -/
theorem controllerStep_stopEnds {s : State} (hr : busRequest s = .stop) (hfree : s.bus.own = .free → s.bus = freeBus)
    (hgo : StopGoes s) :
    ∃ e : BusEnv, controllerStep s = .next { s with
      ctl := { s.ctl with con := { s.ctl.con with sto := false } }
      bus := freeBus
      trace := s.trace ++ stopEvents (heldFlag s)
      env := e } := by
  cases hown : s.bus.own with
  | free =>
    refine ⟨s.env, (controllerStep_stopOnFree hr hown).trans ?_⟩
    simp [← hfree hown, heldFlag, hown, stopEvents, setSto]
  | held =>
    rw [show heldFlag s = true by simp [heldFlag, hown]]
    exact controllerStep_stop hr hown hgo

/-- R108 to R110, R129, R130: the warm-up from TERM to its end. -/
theorem Turns.warmupClosing {l sch : List Agent} {s t : State} (h : Turns l s t) (ht : t.faults = [])
    (hes : t.eng.es = .term) (hts : t.eng.wTstop = true) (hw : t.eng.wWarm = true) (hen : t.ctl.con.en = true)
    (hsi : t.ctl.con.si = false) (hfree : t.bus.own = .free → t.bus = freeBus) (hgo : StopGoes t)
    (hsch : t.schedule = .engine :: .controller :: .engine :: sch) :
    ∃ e : BusEnv, Turns (l ++ [.engine, .controller, .engine]) s { t with
      status := { t.status with cfg := true, busy := false }
      eng := { t.eng with wWarm := false, es := .idle }
      ctl := { t.ctl with con := { t.ctl.con with sto := false } }
      bus := freeBus
      trace := t.trace ++ stopEvents (heldFlag t)
      env := e
      schedule := sch } := by
  obtain ⟨e, hstop⟩ := controllerStep_stopEnds (s := { t with
      eng := { t.eng with es := .stopWait }
      ctl := { t.ctl with con := { t.ctl.con with sto := true } }
      schedule := .engine :: sch }) (by simp [busRequest, hen, hsi]) hfree hgo
  exact ⟨e, h.append (.cons ht hsch (engineStep_of_term_stop hes hts) (.cons ht rfl hstop
    (.cons ht rfl (engineStep_of_warmupEnd rfl rfl hw) (.nil _))))⟩

/-- Settles O53: the opening, the answer to the address byte, which leads to TERM in every case, and the end. -/
theorem configureRunsToIdle : Obligations.ConfigureRunsToIdle := by
  intro s w prog sch gs a as d hs hb hown hp hw hd hsch hg htx
  obtain ⟨-, -, -, hlt⟩ := divisor_eq_ok.1 hd
  have hdiv : (BitVec.ofNat 16 d).toNat = d := Nat.mod_eq_of_lt hlt
  obtain ⟨e, he, hopen⟩ := turns_warmupOpening hs hb hown hp hw hd hg hsch
  have hdir : slaDir warmupSla = false := by decide
  obtain ⟨f, hans⟩ := hopen.answer_to_term hs rfl rfl rfl rfl rfl rfl hdir (he.trans htx) rfl
  obtain ⟨e', hclose⟩ :=
    hans.warmupClosing hs rfl rfl rfl rfl rfl (answerBus_of_free rfl) (.inl (answerBus_sdrv rfl)) rfl
  refine ⟨_, hclose.run, rfl, rfl, rfl, rfl, hdiv, hdiv, rfl, rfl, rfl, rfl, hs, rfl, rfl, ?_⟩
  cases a <;> exact List.append_assoc _ _ _

end Sys2Proof.Machine
end

section
/-! The steps of the engine, and how its turn stops: the start, failure and unknown phases, TERM and STOPWAIT (R91, R92,
R96, R97, R99, R101 to R104, R107 to R110). -/

namespace Sys2Proof.Machine

/-! ### Handlers that answer without moving a byte -/

/-- Settles O22: each of the three handlers is its own updates and the epilogue. -/
theorem startAndReadAckedPhasesProceed : Obligations.StartAndReadAckedPhasesProceed := by
  refine ⟨fun i s hi => ?_, fun s => rfl⟩
  rcases hi with rfl | rfl <;> rfl

/-- Settles O24: the four handlers are one failure action. -/
theorem failurePhasesForceTheStop : Obligations.FailurePhasesForceTheStop := by
  intro i s hi
  rcases hi with rfl | rfl | rfl | rfl <;> rfl

/-! ### The engine's own steps -/

theorem engineStep_of_idle {s : State} (hes : s.eng.es = .idle) : engineStep s = .next s := by
  simp [engineStep, engineEnabled, hes]

/-- R109: the engine waits for the end of the STOP. -/
theorem engineStep_of_stopping {s : State} (hes : s.eng.es = .stopWait) (hsto : s.ctl.con.sto = true) :
    engineStep s = .next s := by
  simp [engineStep, engineEnabled, hes, hsto]

/-- R108, R109: where a command ends, the engine finishes it. -/
theorem engineStep_of_finish {s : State}
    (h : s.eng.es = .term ∧ s.eng.wTstop = false ∨ s.eng.es = .stopWait ∧ s.ctl.con.sto = false) :
    engineStep s = .next (finish s) := by
  rcases h with ⟨hes, hts⟩ | ⟨hes, hsto⟩
  · rw [engineStep_of_term hes, termStep, if_neg (by simp [hts])]
  · simp [engineStep, engineEnabled, hes, hsto]

/-- R110: the warm-up and a TRANSFER end in one form. -/
theorem finish_eq (s : State) : finish s = { s with
    eng := { s.eng with wWarm := false, es := .idle }
    status :=
      { busy := false
        fail := if s.eng.wWarm then s.status.fail else s.eng.wFail
        cfg := if s.eng.wWarm then true else s.status.cfg } } := by
  rcases finish_cases s with ⟨hw, ht⟩ | ⟨hw, ht⟩ <;> simp [ht, hw]

/-- Settles O29: by the sequencer's state. -/
theorem engineSteps : Obligations.EngineSteps := by
  refine fun s => ⟨engineStep_of_start, fun h => ?_, engineStep_of_term_stop, fun h => ?_⟩
  · rcases h with hes | ⟨hes, hsi⟩ | ⟨hes, hsto⟩
    · exact engineStep_of_idle hes
    · exact engineStep_of_waiting hes hsi
    · exact engineStep_of_stopping hes hsto
  · rw [engineStep_of_finish h, finish_eq]

/-! ### The faults of the engine and of the controller -/

/-- R70: every code outside R64's list is reserved. -/
theorem decodePhase_of_not_mem {c : Byte} (hc : c ∉ phaseCodes) : decodePhase c = .reject (.reservedPhase c) := by
  have hnone : phaseTable.lookup c = none := by
    refine List.lookup_eq_none_iff.2 fun p hp => ?_
    exact bne_iff_ne.2 fun heq => hc (heq ▸ List.mem_map_of_mem hp)
  rw [decodePhase, hnone]

/-- R107: the engine's turn in WAIT at a code outside R64's list. -/
theorem engineStep_of_unknownPhase {s : State} (hes : s.eng.es = .wait) (hsi : s.ctl.con.si = true)
    (hc : s.ctl.stat ∉ phaseCodes) : engineStep s = .fault (.unknownPhase s.ctl.stat) := by
  simp [engineStep, engineEnabled, hes, hsi, runPhase, statView, decode, decodePhase_of_not_mem hc]

/-- R49, R50: the one fault of a handler is an overrun. -/
theorem exec_phase_fault {c : Byte} {i : Instr} {s : State} {f : Fault} (hd : decodePhase c = .instr i)
    (h : exec i s = .fault f) : f = .bufferOverrun s.eng.wPtr := by
  rcases exec_phase_cases hd s with ⟨-, he⟩ | ⟨-, he⟩ | ⟨-, he⟩ | ⟨-, he⟩ | ⟨-, he⟩ <;> rw [he] at h
  · cases h
  · rcases transmitNext_total s with ⟨t, ht⟩ | ⟨-, -, hf⟩
    · rw [ht] at h; cases h
    · rw [hf] at h; cases h; rfl
  · cases h
  · cases h
  · rcases storeReceived_total s with ⟨t, ht⟩ | ⟨-, hf⟩
    · rw [ht] at h; cases h
    · rw [hf] at h; cases h; rfl

/-- R93, R107, R149: the engine's turn stops only in WAIT with a phase reported: at an unknown one, or at an overrun. -/
theorem engineStep_fault {s : State} {f : Fault} (h : engineStep s = .fault f) :
    s.eng.es = .wait ∧ s.ctl.con.si = true ∧
      (s.ctl.stat ∉ phaseCodes ∧ f = .unknownPhase s.ctl.stat ∨ f = .bufferOverrun s.eng.wPtr) := by
  cases hes : s.eng.es with
  | idle => rw [engineStep_of_idle hes] at h; cases h
  | start => rw [engineStep_of_start hes] at h; cases h
  | term => rw [engineStep_of_term hes] at h; cases h
  | stopWait =>
    cases hsto : s.ctl.con.sto
    · rw [engineStep_of_finish (.inr ⟨hes, hsto⟩)] at h; cases h
    · rw [engineStep_of_stopping hes hsto] at h; cases h
  | wait =>
    cases hsi : s.ctl.con.si
    · rw [engineStep_of_waiting hes hsi] at h; cases h
    refine ⟨rfl, rfl, ?_⟩
    by_cases hc : s.ctl.stat ∈ phaseCodes
    · obtain ⟨i, hd⟩ := exists_of_mem_phaseCodes hc
      rw [engineStep_phase hes hsi hd] at h
      exact .inr (exec_phase_fault hd h)
    · rw [engineStep_of_unknownPhase hes hsi hc] at h
      cases h
      exact .inl ⟨hc, rfl⟩

/-- R127: the controller's turn raises ControllerMisuse only. -/
theorem controllerStep_fault {s : State} {f : Fault} (h : controllerStep s = .fault f) :
    f = .controllerMisuse s.ctl.act := by
  unfold controllerStep at h
  cases hr : busRequest s <;> rw [hr] at h
  case transmit => dsimp only at h; split at h <;> cases h; rfl
  case receive => dsimp only at h; split at h <;> cases h; rfl
  case invalid => cases h; rfl
  all_goals cases h

/-- Settles O4: no other turn of the engine, and no turn of the host or the controller, raises UnknownPhase. -/
theorem unknownPhaseCodeStops : Obligations.UnknownPhaseCodeStops := by
  have hengine (s : State) (c : Byte) (h : engineStep s = .fault (.unknownPhase c)) :
      s.eng.es = .wait ∧ s.ctl.con.si = true ∧ c = s.ctl.stat ∧ s.ctl.stat ∉ phaseCodes := by
    obtain ⟨hes, hsi, ⟨hc, hf⟩ | hf⟩ := engineStep_fault h <;> cases hf
    exact ⟨hes, hsi, rfl, hc⟩
  refine fun s => ⟨engineStep_of_unknownPhase, hengine s, fun c hs hst => ?_⟩
  rw [step_of_no_fault hs] at hst
  cases ha : (takeAgent s).1 <;> rw [ha, agentStep] at hst
  · have hcode := hostStep_fault_code hst
    simp [Fault.code] at hcode
  · obtain ⟨hes, hsi, hc, hn⟩ := hengine _ c hst
    rw [takeAgent_eng] at hes
    rw [takeAgent_ctl] at hsi hc hn
    exact ⟨rfl, hes, hsi, hc, hn⟩
  · cases controllerStep_fault hst

end Sys2Proof.Machine
end

section
/-! The progress registers (R115): every turn keeps them in step, and only a handler that moves a byte changes them. -/

namespace Sys2Proof.Machine

/-! ### The turns of the host -/

theorem ProgressInv.congr {s t : State} (h : ProgressInv s) (heng : t.eng = s.eng) : ProgressInv t := by
  rwa [ProgressInv, heng]

/-- R77, R82: a command starts with its whole length to move. -/
theorem progressInv_issueTransfer (s : State) (o : TransferOperands) (w : Bool) (hlim : o.limit < 2 ^ 32) :
    ProgressInv (issueTransfer o w s) := by
  have hend : (BitVec.ofNat 32 o.limit).toNat = o.buffer.toNat + o.length.toNat := Nat.mod_eq_of_lt hlim
  simp only [ProgressInv, issueTransfer_eng, hend]
  omega

theorem progressInv_exec_command {s t : State} {w : Word} (h : ProgressInv s) (ht : exec (decodeCmd w) s = .next t) :
    ProgressInv t := by
  rcases decodeCmd_cases w with hi | hi | hi | hi <;> rw [hi] at ht
  · obtain ⟨-, rfl⟩ := execNop_next (x := cmdIgnored w) ht
    exact h
  · obtain ⟨-, -, d, -, rfl⟩ := execConfigure_next (x := cmdIgnored w) ht
    exact progressInv_issueTransfer _ _ _ (by decide)
  · obtain ⟨-, hlim, rfl⟩ := execTransfer_next (x := cmdIgnored w) ht
    exact progressInv_issueTransfer _ _ _ hlim
  · exact absurd ht execCmdReserved_ne_next

theorem progressInv_hostStep {s t : State} (h : ProgressInv s) (ht : hostStep s = .next t) : ProgressInv t := by
  rcases hostStep_command_or_frame ht with ⟨w, rest, -, hw⟩ | hf
  · exact progressInv_exec_command (h.congr (popHost_eng s)) hw
  · exact h.congr hf.eng

/-! ### The turns of the engine -/

/-- The address byte and the window are as they were, and no byte or one byte has been counted off (R98, R105). -/
structure Counts (s t : State) : Prop where
  wSla : t.eng.wSla = s.eng.wSla
  wBeg : t.eng.wBeg = s.eng.wBeg
  wEnd : t.eng.wEnd = s.eng.wEnd
  moved : t.eng.wPtr = s.eng.wPtr ∧ t.eng.wLen = s.eng.wLen ∨
    inWindow s s.eng.wPtr = true ∧ t.eng.wPtr = s.eng.wPtr + 1 ∧ t.eng.wLen = lengthAfterByte s

theorem afterStore_progress (s : State) :
    (afterStore s).eng.wPtr = s.eng.wPtr + 1 ∧ (afterStore s).eng.wLen = lengthAfterByte s := by
  rcases afterStore_cases s with ⟨-, ht⟩ | ⟨-, ht⟩ | ⟨-, -, ht⟩ <;> rw [ht] <;> exact ⟨rfl, rfl⟩

theorem exec_phase_counts {c : Byte} {i : Instr} {s t : State} (hd : decodePhase c = .instr i)
    (h : exec i s = .next t) : Counts s t := by
  have hf := exec_phase_frame hd h
  refine ⟨hf.wSla, hf.wBeg, hf.wEnd, ?_⟩
  rcases exec_phase_cases hd s with ⟨-, he⟩ | ⟨-, he⟩ | ⟨-, he⟩ | ⟨-, he⟩ | ⟨-, he⟩ <;> rw [he] at h
  · cases h; exact .inl ⟨rfl, rfl⟩
  · rcases transmitNext_next h with ⟨-, rfl⟩ | ⟨-, hw, -, rfl⟩
    · exact .inl ⟨rfl, rfl⟩
    · exact .inr ⟨hw, rfl, rfl⟩
  · cases h; exact .inl ⟨rfl, rfl⟩
  · cases h; exact .inl ⟨rfl, rfl⟩
  · obtain ⟨hw, -, rfl⟩ := storeReceived_next h
    exact .inr ⟨hw, afterStore_progress _⟩

theorem counts_finish (s : State) : Counts s (finish s) := by
  rw [finish_eq]; exact ⟨rfl, rfl, rfl, .inl ⟨rfl, rfl⟩⟩

/-- R91: every turn of the engine, W_SLA being left alone (R63). -/
theorem engineStep_counts {s t : State} (h : engineStep s = .next t) : Counts s t := by
  rcases engineStep_next h with ⟨-, rfl⟩ | ⟨-, rfl⟩ | ⟨-, -, i, hd, hi⟩ | ⟨-, rfl⟩ | ⟨-, -, rfl⟩
  · exact ⟨rfl, rfl, rfl, .inl ⟨rfl, rfl⟩⟩
  · exact ⟨rfl, rfl, rfl, .inl ⟨rfl, rfl⟩⟩
  · exact exec_phase_counts hd hi
  · rcases termStep_cases s with ⟨-, ht⟩ | ⟨-, ht⟩ <;> rw [ht]
    · exact ⟨rfl, rfl, rfl, .inl ⟨rfl, rfl⟩⟩
    · exact counts_finish s
  · exact counts_finish s

/-- R115: counting keeps the invariant, and the two registers move together, by one byte. -/
theorem Counts.progress {s t : State} (hc : Counts s t) (h : ProgressInv s) :
    ProgressInv t ∧
      (t.eng.wPtr = s.eng.wPtr ∧ t.eng.wLen = s.eng.wLen ∨
        t.eng.wPtr.toNat = s.eng.wPtr.toNat + 1 ∧ t.eng.wLen.toNat + 1 = s.eng.wLen.toNat) := by
  obtain ⟨-, hbeg, hend, ⟨hptr, hlen⟩ | ⟨hw, hptr, hlen⟩⟩ := hc
  · refine ⟨?_, .inl ⟨hptr, hlen⟩⟩
    rwa [ProgressInv, hbeg, hend, hptr, hlen]
  · have h0 := h.wLen_ne_zero hw
    refine ⟨?_, .inr ⟨?_, ?_⟩⟩
    · rw [ProgressInv, hbeg, hend, hptr, hlen]
      exact progressInv_countByte h h0
    · rw [hptr, toNat_succ_of_lt (inWindow_iff.1 hw).2]
    · rw [hlen, lengthAfterByte_toNat h0]

/-- Settles O45: a command loads the registers, the engine counts a byte or none, the controller writes neither. -/
theorem progressIsKept : Obligations.ProgressIsKept := by
  intro s t h hst
  obtain ⟨-, hturn⟩ := step_next hst
  have hu : ProgressInv (takeAgent s).2 := h.congr (takeAgent_eng s)
  rw [← takeAgent_eng s]
  cases ha : (takeAgent s).1 <;> rw [ha] at hturn
  · exact ⟨progressInv_hostStep hu hturn, fun hne => absurd rfl hne⟩
  · obtain ⟨hprog, hmoved⟩ := (engineStep_counts hturn).progress hu
    exact ⟨hprog, fun _ => hmoved⟩
  · have heng := (controllerStep_frame hturn).eng
    exact ⟨hu.congr heng, fun _ => .inl (by rw [heng]; exact ⟨rfl, rfl⟩)⟩

end Sys2Proof.Machine
end

section
/-! The direction of the transfer (R112): which handlers run, and what the engine does with W_SLA (R63). -/

namespace Sys2Proof.Machine

/-! ### The handlers of a direction -/

/-- R112: a phase that fits the bus is a start's, arbitration loss, or one of the transfer's direction. -/
theorem PhaseFits.direction {c : Byte} {i : Instr} {s : State} (h : PhaseFits c s) (hd : decodePhase c = .instr i) :
    (slaDir s.eng.wSla = false → i ∈ [.started, .repeatStarted, .addressWriteAcked, .addressWriteNacked,
      .dataWriteAcked, .dataWriteNacked, .arbitrationLost]) ∧
    (slaDir s.eng.wSla = true → i ∈ [.started, .repeatStarted, .arbitrationLost, .addressReadAcked,
      .addressReadNacked, .dataReadAcked, .dataReadNacked]) := by
  rw [PhaseFits, hd] at h
  cases i <;> simp_all

theorem inv_engineStep {s t : State} (h : Inv s) (ht : engineStep s = .next t) : Inv t := by
  rcases engineStep_move h ht with ⟨-, rfl⟩ | hm
  · exact h
  · exact hm.inv h

/-- R46, R112: the engine writes buffer memory in a read only. -/
theorem engineStep_mem {s t : State} (h : Inv s) (ht : engineStep s = .next t) (hdir : slaDir s.eng.wSla = false) :
    t.mem = s.mem := by
  rcases engineStep_next ht with ⟨-, rfl⟩ | ⟨-, rfl⟩ | ⟨-, hsi, i, hd, hi⟩ | ⟨-, rfl⟩ | ⟨-, -, rfl⟩
  · rfl
  · rfl
  · rcases exec_phase_next hd hi with ⟨-, rfl⟩ | rfl | ⟨b, rfl⟩ | rfl | ⟨-, rfl⟩ | ⟨hread, -⟩
    · rfl
    · rfl
    · rfl
    · rfl
    · rfl
    · obtain ⟨-, -, hfits⟩ := h.siOnly hsi
      have hwrite := (hfits.direction hd).1 hdir
      rcases hread with rfl | rfl <;> simp at hwrite
  · rcases termStep_cases s with ⟨-, ht⟩ | ⟨-, ht⟩ <;> rw [ht]
    · rfl
    · rw [finish_eq]
  · rw [finish_eq]

/-! ### The engine with another W_SLA -/

/-- The state with another byte in W_SLA. -/
abbrev withSla (b : Byte) (s : State) : State := { s with eng := { s.eng with wSla := b } }

/-- The outcome with its next state changed. -/
def onNext (f : State → State) : Result State → Result State
  | .next t => .next (f t)
  | .fault e => .fault e
  | .refused e => .refused e

theorem transmitNext_withSla (b : Byte) (s : State) :
    transmitNext (withSla b s) = onNext (withSla b) (transmitNext s) := by
  unfold transmitNext
  split
  · rfl
  · have hread : memRead (withSla b s) s.eng.wPtr = memRead s s.eng.wPtr := rfl
    rw [hread]
    cases memRead s s.eng.wPtr <;> rfl

theorem afterStore_withSla (b : Byte) (s : State) : afterStore (withSla b s) = withSla b (afterStore s) := by
  have hlen : (countByte (withSla b s)).eng.wLen = (countByte s).eng.wLen := rfl
  unfold afterStore
  dsimp only
  rw [hlen]
  by_cases h0 : (countByte s).eng.wLen = 0 <;> by_cases h1 : (countByte s).eng.wLen = 1
  · rw [if_pos h0, if_pos h0, if_pos h1, if_pos h1]; rfl
  · rw [if_pos h0, if_pos h0, if_neg h1, if_neg h1]; rfl
  · rw [if_neg h0, if_neg h0, if_pos h1, if_pos h1]; rfl
  · rw [if_neg h0, if_neg h0, if_neg h1, if_neg h1]; rfl

theorem storeReceived_withSla (b : Byte) (s : State) :
    storeReceived (withSla b s) = onNext (withSla b) (storeReceived s) := by
  rcases storeReceived_total s with ⟨t, ht⟩ | ⟨hn, hf⟩
  · obtain ⟨hw, hm, rfl⟩ := storeReceived_next ht
    rw [ht, storeReceived_of_inWindow (s := withSla b s) hw hm]
    rw [onNext, ← afterStore_withSla]
  · rw [hf, storeReceived_of_not_accessible (s := withSla b s) hn]
    rfl

/-- R63: but for a start's, no handler reads W_SLA. -/
theorem exec_phase_withSla {c : Byte} {i : Instr} (b : Byte) (s : State) (hd : decodePhase c = .instr i)
    (hc : ¬(c = 0x08 ∨ c = 0x10)) : exec i (withSla b s) = onNext (withSla b) (exec i s) := by
  rcases decodePhase_cases hd with ⟨rfl, rfl⟩ | ⟨rfl, rfl⟩ | ⟨rfl, rfl⟩ | ⟨rfl, rfl⟩ | ⟨rfl, rfl⟩ | ⟨rfl, rfl⟩ |
    ⟨rfl, rfl⟩ | ⟨rfl, rfl⟩ | ⟨rfl, rfl⟩ | ⟨rfl, rfl⟩ | ⟨rfl, rfl⟩
  · exact absurd (.inl rfl) hc
  · exact absurd (.inr rfl) hc
  · exact transmitNext_withSla b s
  · rfl
  · exact transmitNext_withSla b s
  · rfl
  · rfl
  · rfl
  · rfl
  · exact storeReceived_withSla b s
  · exact storeReceived_withSla b s

theorem finish_withSla (b : Byte) (s : State) : finish (withSla b s) = withSla b (finish s) := by
  rw [finish_eq, finish_eq]

theorem termStep_withSla (b : Byte) (s : State) : termStep (withSla b s) = withSla b (termStep s) := by
  unfold termStep
  split
  · rfl
  · exact finish_withSla b s

/-- The engine's turn is a start handler, the one that reads W_SLA (R63, R96, R97). -/
abbrev AtStartPhase (s : State) : Prop :=
  s.eng.es = .wait ∧ s.ctl.con.si = true ∧ (s.ctl.stat = 0x08 ∨ s.ctl.stat = 0x10)

/-- R63: but in a start handler, the engine does not read W_SLA. -/
theorem engineStep_withSla (b : Byte) {s : State} (h : ¬AtStartPhase s) :
    engineStep (withSla b s) = onNext (withSla b) (engineStep s) := by
  cases hes : s.eng.es with
  | idle => rw [engineStep_of_idle hes, engineStep_of_idle (s := withSla b s) hes]; rfl
  | start => rw [engineStep_of_start hes, engineStep_of_start (s := withSla b s) hes]; rfl
  | term =>
    rw [engineStep_of_term hes, engineStep_of_term (s := withSla b s) hes, termStep_withSla]
    rfl
  | stopWait =>
    cases hsto : s.ctl.con.sto
    · rw [engineStep_of_finish (.inr ⟨hes, hsto⟩), engineStep_of_finish (s := withSla b s) (.inr ⟨hes, hsto⟩),
        finish_withSla]
      rfl
    · rw [engineStep_of_stopping hes hsto, engineStep_of_stopping (s := withSla b s) hes hsto]
      rfl
  | wait =>
    cases hsi : s.ctl.con.si
    · rw [engineStep_of_waiting hes hsi, engineStep_of_waiting (s := withSla b s) hes hsi]
      rfl
    by_cases hc : s.ctl.stat ∈ phaseCodes
    · obtain ⟨i, hd⟩ := exists_of_mem_phaseCodes hc
      rw [engineStep_phase hes hsi hd, engineStep_phase (s := withSla b s) hes hsi hd]
      exact exec_phase_withSla b s hd fun hstart => h ⟨hes, hsi, hstart⟩
    · rw [engineStep_of_unknownPhase hes hsi hc, engineStep_of_unknownPhase (s := withSla b s) hes hsi hc]
      rfl

/-- R63, R96, R97: a start handler puts W_SLA in DAT. -/
theorem engineStep_withSla_start (b : Byte) {s : State} (h : AtStartPhase s) :
    engineStep (withSla b s) = onNext (fun t => withSla b (setDat b t)) (engineStep s) := by
  obtain ⟨hes, hsi, hstat⟩ := h
  obtain ⟨o, ho⟩ : ∃ o, s.ctl.stat = startPhase o := hstat.elim (⟨.free, ·⟩) (⟨.held, ·⟩)
  rw [engineStep_of_startPhase hes hsi ho, engineStep_of_startPhase (s := withSla b s) hes hsi ho]
  rfl

/-- The state after a turn from `s`, had W_SLA been `b` (R63). -/
def redirected (s : State) (b : Byte) (t : State) : State :=
  { t with
    eng := { t.eng with wSla := b }
    ctl := { t.ctl with dat := if AtStartPhase s then b else t.ctl.dat } }

theorem engineStep_redirected (s : State) (b : Byte) :
    engineStep (withSla b s) = onNext (redirected s b) (engineStep s) := by
  by_cases h : AtStartPhase s
  · rw [engineStep_withSla_start b h]
    congr 1; funext t
    rw [redirected, if_pos h]
    rfl
  · rw [engineStep_withSla b h]
    congr 1; funext t
    rw [redirected, if_neg h]

/-- Settles O49: the reported phase fits the direction, the next state keeps the invariant, and W_SLA is read by the start
handlers only. -/
theorem directionDecidesTheHandlers : Obligations.DirectionDecidesTheHandlers := by
  refine ⟨fun s h => ⟨fun i _ hsi hd => ?_, fun t ht => ⟨fun hw => ⟨engineStep_mem h ht hw, fun hact => ?_⟩,
    fun hr hact => ?_⟩⟩, fun s b => ⟨fun f hf => ?_, fun t ht => ?_⟩⟩
  · obtain ⟨-, -, hfits⟩ := h.siOnly hsi
    exact hfits.direction hd
  · obtain ⟨-, -, -, hdir⟩ := (inv_engineStep h ht).receive hact
    rw [(engineStep_counts ht).wSla, slaDir, hw] at hdir
    cases hdir
  · obtain ⟨-, haddr, hdata⟩ := (inv_engineStep h ht).transmit hact
    rw [(engineStep_counts ht).wSla] at haddr hdata
    cases hfirst : t.bus.firstTx
    · obtain ⟨-, hdir⟩ := hdata hfirst
      rw [slaDir, hr] at hdir
      cases hdir
    · exact haddr hfirst
  · rw [engineStep_redirected, hf]; rfl
  · rw [engineStep_redirected, ht]; rfl

end Sys2Proof.Machine
end

section
/-! A read of one byte whose STOP the environment does not allow (R114, R131, R168). -/

namespace Sys2Proof.Machine

/-! ### The opening on a free bus -/

/-- R119: a START on a free bus, granted. -/
theorem controllerStep_startFree {s : State} {gs : List Bool} (hr : busRequest s = .start) (hown : s.bus.own = .free)
    (hg : s.env.grants = true :: gs) :
    controllerStep s = .next { s with
      ctl := { s.ctl with stat := 0x08, con := { s.ctl.con with si := true } }
      bus := startedBus
      trace := s.trace ++ [.start]
      env := { s.env with grants := gs } } := by
  simp only [controllerStep, hr, hown, startFree, askGrant, hg]
  rfl

/-- R83, R88: from the CMD write to the answer to the address byte, on a free bus. No release is asked for. -/
theorem turns_openingOnFreeBus {s : State} {w : Word} {prog : List HostAccess} {sch : List Agent} {a : Ack}
    {gs : List Bool} {as : List TxAnswer}
    (hi : Inv s) (hs : s.faults = []) (hb : s.status.busy = false) (hen : s.ctl.con.en = true)
    (hp : s.host.program = .write .word 0x00 w :: prog) (hw : w.toNat % 4 = 2)
    (hlim : s.req.buf.toNat + s.req.len.toNat < 2 ^ 32) (hown : s.bus.own = .free) (hg : s.env.grants = true :: gs)
    (htx : s.env.tx = .reply a :: as)
    (hsch : s.schedule = .host :: .engine :: .controller :: .engine :: .controller :: sch) :
    Turns [.host, .engine, .controller, .engine, .controller] s { s with
      status := { s.status with busy := true }
      eng :=
        { wSla := s.req.sla, wBeg := s.req.buf, wPtr := s.req.buf, wEnd := BitVec.ofNat 32 (transferOperands s).limit,
          wLen := s.req.len, wTstop := s.req.tstop, wFail := false, wWarm := false, es := .wait }
      ctl :=
        { s.ctl with dat := s.req.sla, act := actNone, stat := addressPhase s.req.sla a,
                     con := { s.ctl.con with sta := false, si := true } }
      bus := ⟨.held, addressMode s.req.sla a, false, false⟩
      trace := s.trace ++ [.start] ++ [.addr s.req.sla a]
      host := { s.host with program := prog }
      env := { s.env with grants := gs, tx := as }
      schedule := sch } := by
  have hes := hi.es_of_not_busy hb
  obtain ⟨hsi, -, -⟩ := hi.quiet (by simp [hes])
  have hsto := hi.sto_of_not_stopWait (by simp [hes])
  exact .cons hs hsch (hostStep_transfer (s := { s with schedule := _ }) hb hp hw hlim)
    (.cons hs rfl (engineStep_of_start rfl)
    (.cons hs rfl (controllerStep_startFree (by simp [busRequest, hen, hsi, hsto]) hown hg)
    (.cons hs rfl (engineStep_of_startPhase (o := .free) rfl rfl rfl)
    (.cons hs rfl (controllerStep_address (by simp [busRequest, hen, hsto]) rfl rfl htx) (.nil _)))))

/-! ### A STOP that is not allowed -/

/-- R131: with SDRV = 1, a STOP that the environment does not allow uses up its answer. -/
theorem controllerStep_stopRefused {s : State} {rels : List Bool} (hr : busRequest s = .stop)
    (hown : s.bus.own = .held) (hd : s.bus.sdrv = true) (hrel : s.env.releases = false :: rels) :
    controllerStep s = .next { s with env := { s.env with releases := rels } } := by
  have hask : askRelease s = (false, { s with env := { s.env with releases := rels } }) := by
    rw [askRelease, if_neg (by simp [hd]), hrel]
  simp only [controllerStep, hr, if_pos hown, stopHeld, hask]

/-- R131, R168: as long as the STOP is not allowed, controller and engine wait. -/
theorem turns_stopRefused {k : Nat} {s : State} {sch : List Agent} {more : List Bool} (hs : s.faults = [])
    (hes : s.eng.es = .stopWait) (hr : busRequest s = .stop) (hown : s.bus.own = .held) (hd : s.bus.sdrv = true)
    (hsto : s.ctl.con.sto = true) (hrel : s.env.releases = List.replicate k false ++ more)
    (hsch : s.schedule = (List.replicate k [Agent.controller, .engine]).flatten ++ sch) :
    Turns (List.replicate k [Agent.controller, .engine]).flatten s
      { s with env := { s.env with releases := more }, schedule := sch } := by
  induction k generalizing s with
  | zero =>
    obtain rfl : s.env.releases = more := hrel
    obtain rfl : s.schedule = sch := hsch
    exact .nil s
  | succ k ih =>
    rw [List.replicate_succ, List.flatten_cons] at hsch ⊢
    exact .cons hs hsch (controllerStep_stopRefused (s := { s with schedule := _ }) hr hown hd hrel)
      (.cons hs rfl (engineStep_of_stopping hes hsto) (ih hs hes hr hown hd hsto rfl rfl))

/-- Settles O56: the opening, the one byte, which is ACKed, the request of the STOP, and the waiting. -/
theorem singleByteReadCanHang : Obligations.SingleByteReadCanHang := by
  intro s w prog sch gs as b rs more k hs hb hi hen hown hp hw hlen hlim hm hdir hts hsch hg htx hrx hrel
  have hone : s.req.len.toNat = 1 := by rw [hlen]; rfl
  have hopen := turns_openingOnFreeBus hi hs hb hen hp hw (by rw [hone]; exact hlim) hown hg htx hsch
  have hroom : windowExists s s.req.buf.toNat s.req.len.toNat := by
    intro a h1 h2
    obtain rfl : a = s.req.buf := BitVec.eq_of_toNat_eq (by omega)
    exact hm
  have hpend : Pending _ := ⟨hopen.inv hi, hs, rfl, hroom⟩
  have hfirst := hpend.turns_receiveFirst (by simp [addressPhase, hdir]) hrx rfl
  have hpend' : Pending _ := ⟨hfirst.inv hpend.inv, hs, rfl, hroom⟩
  have hdone := hpend'.turns_receiveDone (.inl rfl) hlen rfl
  have hstop := hopen.append (hfirst.append (hdone.append (.cons hs rfl (engineStep_of_term_stop rfl hts) (.nil _))))
  have hrun := (hstop.append (turns_stopRefused hs rfl (by simp [busRequest, hen]) rfl rfl rfl hrel rfl)).run
  have hturns : 9 + 2 * k = (List.replicate k [Agent.controller, .engine]).flatten.length + 9 := by
    simp [Nat.add_comm, Nat.mul_comm]
  rw [hturns]
  refine ⟨_, hrun, rfl, rfl, rfl, rfl, ?_, Memory.read_write_same hi.memory.1 _ _, ?_, rfl, rfl⟩
  · simp [addressMode, hdir]
  · simp

end Sys2Proof.Machine
end

section
/-! The controller's turn by the environment's answer (R118 to R125, R129 to R131), and its misuse (R127). -/

namespace Sys2Proof.Machine

/-! ### Requests -/

/-- R118: a pending stop comes first. -/
theorem busRequest_of_sto {s : State} (hen : s.ctl.con.en = true) (hsi : s.ctl.con.si = false)
    (hsto : s.ctl.con.sto = true) : busRequest s = .stop := by
  simp [busRequest, hen, hsi, hsto]

/-- R118: a pending start comes second. -/
theorem busRequest_of_sta {s : State} (hen : s.ctl.con.en = true) (hsi : s.ctl.con.si = false)
    (hsto : s.ctl.con.sto = false) (hsta : s.ctl.con.sta = true) : busRequest s = .start := by
  simp [busRequest, hen, hsi, hsto, hsta]

/-- R118: ACT decides what an enabled controller does, with no phase reported and no stop or start pending. -/
structure ActDecides (s : State) : Prop where
  en : s.ctl.con.en = true
  si : s.ctl.con.si = false
  sto : s.ctl.con.sto = false
  sta : s.ctl.con.sta = false

/-- R118, R127: the requests by ACT; the one value that names no action is 3 (R39). -/
theorem ActDecides.busRequest_iff {s : State} (h : ActDecides s) :
    (busRequest s = .transmit ↔ s.ctl.act = actTx) ∧ (busRequest s = .receive ↔ s.ctl.act = actRx) ∧
      (busRequest s = .invalid ↔ s.ctl.act = 3) := by
  have hvalue : s.ctl.act = 0 ∨ s.ctl.act = 1 ∨ s.ctl.act = 2 ∨ s.ctl.act = 3 := by bv_omega
  rcases hvalue with ha | ha | ha | ha <;>
    simp [busRequest, h.en, h.si, h.sto, h.sta, ha, actNone, actTx, actRx]

theorem actDecides_of_busRequest {s : State}
    (hr : busRequest s = .transmit ∨ busRequest s = .receive ∨ busRequest s = .invalid) : ActDecides s := by
  rcases busRequest_cases s with ⟨hn, -⟩ |
    ⟨hen, hsi, ⟨hn, -⟩ | ⟨hn, -⟩ | ⟨-, hsto, hsta, -⟩ | ⟨-, hsto, hsta, -⟩ | ⟨-, hsto, hsta, -⟩⟩
  · simp [hn] at hr
  · simp [hn] at hr
  · simp [hn] at hr
  all_goals exact ⟨hen, hsi, hsto, hsta⟩

theorem busRequest_transmit_iff {s : State} : busRequest s = .transmit ↔ ActDecides s ∧ s.ctl.act = actTx := by
  refine ⟨fun hr => ?_, fun ⟨hd, ha⟩ => hd.busRequest_iff.1.2 ha⟩
  have hd := actDecides_of_busRequest (.inl hr)
  exact ⟨hd, hd.busRequest_iff.1.1 hr⟩

theorem busRequest_receive_iff {s : State} : busRequest s = .receive ↔ ActDecides s ∧ s.ctl.act = actRx := by
  refine ⟨fun hr => ?_, fun ⟨hd, ha⟩ => hd.busRequest_iff.2.1.2 ha⟩
  have hd := actDecides_of_busRequest (.inr (.inl hr))
  exact ⟨hd, hd.busRequest_iff.2.1.1 hr⟩

theorem busRequest_invalid_iff {s : State} : busRequest s = .invalid ↔ ActDecides s ∧ s.ctl.act = 3 := by
  refine ⟨fun hr => ?_, fun ⟨hd, ha⟩ => hd.busRequest_iff.2.2.2 ha⟩
  have hd := actDecides_of_busRequest (.inr (.inr hr))
  exact ⟨hd, hd.busRequest_iff.2.2.1 hr⟩

/-! ### Actions that the bus state does not allow -/

theorem mayTransmit_eq_false {s : State} :
    mayTransmit s = false ↔ s.bus.own = .free ∨ s.bus.firstTx = false ∧ s.bus.mode ≠ .mt := by
  cases hown : s.bus.own <;> simp [mayTransmit, hown]

theorem mayReceive_eq_false {s : State} :
    mayReceive s = false ↔ s.bus.own = .free ∨ s.bus.firstTx = true ∨ s.bus.mode ≠ .mr := by
  cases hown : s.bus.own <;> cases hfirst : s.bus.firstTx <;> simp [mayReceive, hown, hfirst]

/-- R127: the controller's turn stops at a transmit or a receive that is not allowed, and at ACT = 3. -/
theorem controllerStep_fault_iff {s : State} {a : Select} :
    controllerStep s = .fault (.controllerMisuse a) ↔ a = s.ctl.act ∧
      (busRequest s = .transmit ∧ mayTransmit s = false ∨ busRequest s = .receive ∧ mayReceive s = false ∨
        busRequest s = .invalid) := by
  unfold controllerStep
  cases hr : busRequest s
  case transmit => cases mayTransmit s <;> simp [eq_comm (a := a)]
  case receive => cases mayReceive s <;> simp [eq_comm (a := a)]
  all_goals simp [eq_comm (a := a)]

/-- Settles O35: the three requests that can stop, by CON and ACT. -/
theorem controllerMisuseStops : Obligations.ControllerMisuseStops := by
  intro s a
  rw [controllerStep_fault_iff, busRequest_transmit_iff, busRequest_receive_iff, busRequest_invalid_iff,
    mayTransmit_eq_false, mayReceive_eq_false]
  constructor
  · rintro ⟨ha, ⟨⟨⟨hen, hsi, hsto, hsta⟩, hact⟩, hm⟩ | ⟨⟨⟨hen, hsi, hsto, hsta⟩, hact⟩, hm⟩ |
      ⟨⟨hen, hsi, hsto, hsta⟩, hact⟩⟩
    · exact ⟨ha, hen, hsi, hsto, hsta, .inl ⟨hact, hm⟩⟩
    · exact ⟨ha, hen, hsi, hsto, hsta, .inr (.inl ⟨hact, hm⟩)⟩
    · exact ⟨ha, hen, hsi, hsto, hsta, .inr (.inr hact)⟩
  · rintro ⟨ha, hen, hsi, hsto, hsta, hc⟩
    have hd : ActDecides s := ⟨hen, hsi, hsto, hsta⟩
    exact ⟨ha, hc.imp (fun ⟨hact, hm⟩ => ⟨⟨hd, hact⟩, hm⟩) (.imp (fun ⟨hact, hm⟩ => ⟨⟨hd, hact⟩, hm⟩) (⟨hd, ·⟩))⟩

/-! ### The bus actions, by the environment's answer -/

/-- R119: a START on a free bus. -/
theorem startFree_of_answer {s u : State} {g : Bool} (h : askGrant s = (g, u)) :
    startFree s =
      if g then enterPhase 0x08 (setBus startedBus (emit .start (withInputs u.env u.draws s)))
      else withInputs u.env u.draws s := by
  obtain ⟨e, n, rfl⟩ : ∃ e n, u = withInputs e n s := by simpa [h] using askGrant_inputs s
  cases g <;> simp [startFree, h]

/-- R120, R131: a repeated START. -/
theorem startHeld_of_answer {s u : State} {g : Bool} (h : askRelease s = (g, u)) :
    startHeld s =
      if g then enterPhase 0x10 (setBus startedBus (emit .rstart (withInputs u.env u.draws s)))
      else withInputs u.env u.draws s := by
  obtain ⟨e, n, rfl⟩ : ∃ e n, u = withInputs e n s := by simpa [h] using askRelease_inputs s
  cases g <;> simp [startHeld, h]

/-- R129, R131: a STOP on a held bus. -/
theorem stopHeld_of_answer {s u : State} {g : Bool} (h : askRelease s = (g, u)) :
    stopHeld s =
      if g then setSto false (setBus freeBus (emit .stop (withInputs u.env u.draws s)))
      else withInputs u.env u.draws s := by
  obtain ⟨e, n, rfl⟩ : ∃ e n, u = withInputs e n s := by simpa [h] using askRelease_inputs s
  cases g <;> simp [stopHeld, h]

/-- R131: with SDRV = 0 nothing is asked. -/
theorem askRelease_of_not_sdrv {s : State} (h : s.bus.sdrv = false) : askRelease s = (true, s) := if_pos h

/-- R122, R124: the transmit of an address byte. -/
theorem txAddress_of_answer {s u : State} {a : TxAnswer} (h : askTx s = (a, u)) :
    txAddress s = enterPhase (answerPhase s.ctl.dat a) (setBus (answerBus s.ctl.dat s.bus a)
      (emit (answerEvent s.ctl.dat a) (setAct actNone (withInputs u.env u.draws s)))) := by
  obtain ⟨e, n, rfl⟩ : ∃ e n, u = withInputs e n s := by simpa [h] using askTx_inputs s
  cases a <;> simp only [txAddress, h] <;> rfl

/-- The phase that the answer to a data byte is reported with (R123, R124). -/
def dataPhase : TxAnswer → Byte
  | .reply .ack => 0x28
  | .reply .nack => 0x30
  | .arb => 0x38

/-- The hidden bus state after the answer to a data byte (R123, R124). -/
def dataBus (bus : BusState) : TxAnswer → BusState
  | .reply _ => bus
  | .arb => freeBus

/-- The event of the answer to a data byte (R123, R124). -/
def dataEvent (b : Byte) : TxAnswer → BusEvent
  | .reply a => .txd b a
  | .arb => .arbLost

/-- R123, R124: the transmit of a data byte. -/
theorem txData_of_answer {s u : State} {a : TxAnswer} (h : askTx s = (a, u)) :
    txData s = enterPhase (dataPhase a) (setBus (dataBus s.bus a)
      (emit (dataEvent s.ctl.dat a) (setAct actNone (withInputs u.env u.draws s)))) := by
  obtain ⟨e, n, rfl⟩ : ∃ e n, u = withInputs e n s := by simpa [h] using askTx_inputs s
  rcases a with (_ | _) | _ <;> simp only [txData, h] <;> rfl

/-- R125: the receive of a byte. -/
theorem rxData_of_byte {s u : State} {b : Byte} (h : askRx s = (.byte b, u)) :
    rxData s = enterPhase (if s.ctl.con.aa then 0x50 else 0x58) (setBus { s.bus with sdrv := s.ctl.con.aa }
      (emit (.rxd b (if s.ctl.con.aa then .ack else .nack))
        (setDat b (setAct actNone (withInputs u.env u.draws s))))) := by
  obtain ⟨e, n, rfl⟩ : ∃ e n, u = withInputs e n s := by simpa [h] using askRx_inputs s
  simp only [rxData, h]

/-- R124, R125: a receive that is lost to another master. -/
theorem rxData_of_arb {s u : State} (h : askRx s = (.arb, u)) :
    rxData s = arbitrationLost (setAct actNone (withInputs u.env u.draws s)) := by
  obtain ⟨e, n, rfl⟩ : ∃ e n, u = withInputs e n s := by simpa [h] using askRx_inputs s
  simp only [rxData, h]

/-! ### The turns -/

/-- R119, R120: the turn with a start pending. -/
theorem controllerStep_of_start {s : State} (hr : busRequest s = .start) :
    controllerStep s = .next (if s.bus.own = .held then startHeld s else startFree s) := by
  simp only [controllerStep, hr]

/-- R129, R130: the turn with a stop pending. -/
theorem controllerStep_of_stop {s : State} (hr : busRequest s = .stop) :
    controllerStep s = .next (if s.bus.own = .held then stopHeld s else setSto false s) := by
  simp only [controllerStep, hr]

/-- Settles O31: the START by its grant, the repeated START by its release. -/
theorem startOrRepeatedStart : Obligations.StartOrRepeatedStart := by
  intro s hen hsi hsto hsta
  have hturn := controllerStep_of_start (busRequest_of_sta hen hsi hsto hsta)
  refine ⟨fun g u hown hg => ?_, fun hown hd => ?_, fun g u hown _ hg => ?_⟩ <;> rw [hturn, hown]
  · rw [if_neg (by decide), startFree_of_answer hg]; rfl
  · rw [if_pos rfl, startHeld_of_answer (askRelease_of_not_sdrv hd)]; rfl
  · rw [if_pos rfl, startHeld_of_answer hg]; rfl

/-- Settles O34: the STOP by its release. -/
theorem stopComesFirst : Obligations.StopComesFirst := by
  intro s hen hsi hsto
  have hturn := controllerStep_of_stop (busRequest_of_sto hen hsi hsto)
  refine ⟨fun hown => ?_, fun hown hd => ?_, fun g u hown _ hg => ?_⟩ <;> rw [hturn, hown]
  · rw [if_neg (by decide)]; rfl
  · rw [if_pos rfl, stopHeld_of_answer (askRelease_of_not_sdrv hd)]; rfl
  · rw [if_pos rfl, stopHeld_of_answer hg]; rfl

/-- Settles O32: the address byte by its direction bit and its answer, a data byte by its answer. -/
theorem transmitReports : Obligations.TransmitReports := by
  intro s u a hen hsi hsto hsta hact hown hmay hans
  have hr := busRequest_transmit_iff.2 ⟨⟨hen, hsi, hsto, hsta⟩, hact⟩
  have hmay : mayTransmit s = true := by simpa [mayTransmit, hown] using hmay
  cases hfirst : s.bus.firstTx
  · refine ⟨dataEvent s.ctl.dat a, dataBus s.bus a, dataPhase a, ?_, nofun, fun _ => ⟨?_, ?_⟩, ?_⟩
    · simp only [controllerStep, hr, hmay, hfirst, if_true, txData_of_answer hans]
      rfl
    all_goals rintro rfl; exact ⟨rfl, rfl, rfl⟩
  · refine ⟨answerEvent s.ctl.dat a, answerBus s.ctl.dat s.bus a, answerPhase s.ctl.dat a, ?_,
      fun _ => ⟨?_, ?_, ?_, ?_⟩, nofun, ?_⟩
    · simp only [controllerStep, hr, hmay, hfirst, if_true, txAddress_of_answer hans]
      rfl
    case refine_6 => rintro rfl; exact ⟨rfl, rfl, rfl⟩
    all_goals
      rintro rfl hdir
      change slaDir s.ctl.dat = _ at hdir
      simp [answerEvent, answerBus, answerPhase, addressMode, addressPhase, hdir, hown]

/-- Settles O33: AA chooses the acknowledge bit, the code and SDRV. -/
theorem dataByteReceive : Obligations.DataByteReceive := by
  intro s u a hen hsi hsto hsta hact hown hfirst hmode hans
  have hr := busRequest_receive_iff.2 ⟨⟨hen, hsi, hsto, hsta⟩, hact⟩
  have hturn : controllerStep s = .next (rxData s) := by
    simp [controllerStep, hr, mayReceive, hown, hfirst, hmode]
  cases a with
  | byte b =>
    rw [hturn, rxData_of_byte hans]
    refine ⟨_, _, _, _, rfl, ?_, ?_, nofun⟩
    all_goals
      rintro v ⟨⟩ haa
      simp [haa, hown, hfirst, hmode]
  | arb =>
    rw [hturn, rxData_of_arb hans]
    exact ⟨_, _, _, _, rfl, nofun, nofun, fun _ => ⟨rfl, rfl, rfl, rfl⟩⟩

/-! ### ACT -/

theorem stopHeld_act (s : State) : (stopHeld s).ctl.act = s.ctl.act := by
  obtain ⟨e, n, h | h⟩ := stopHeld_cases s <;> rw [h]; rfl

theorem startHeld_act (s : State) : (startHeld s).ctl.act = s.ctl.act := by
  obtain ⟨e, n, h | h⟩ := startHeld_cases s <;> rw [h]; rfl

theorem startFree_act (s : State) : (startFree s).ctl.act = s.ctl.act := by
  obtain ⟨e, n, h | h⟩ := startFree_cases s <;> rw [h]; rfl

theorem txAddress_act (s : State) : (txAddress s).ctl.act = actNone := by
  obtain ⟨e, n, h | ⟨a, h⟩⟩ := txAddress_cases s <;> rw [h] <;> rfl

theorem txData_act (s : State) : (txData s).ctl.act = actNone := by
  obtain ⟨e, n, h | ⟨a, h⟩⟩ := txData_cases s <;> rw [h] <;> rfl

theorem rxData_act (s : State) : (rxData s).ctl.act = actNone := by
  obtain ⟨e, n, h | ⟨b, h⟩⟩ := rxData_cases s <;> rw [h] <;> rfl

/-- R126: the controller's turn and ACT. -/
theorem controllerStep_act {s t : State} (h : controllerStep s = .next t) :
    t.ctl.act = if busRequest s = .transmit ∨ busRequest s = .receive then actNone else s.ctl.act := by
  rcases controllerStep_next h with ⟨hr, rfl⟩ | ⟨hr, rfl⟩ | ⟨hr, rfl⟩ | ⟨hr, -, rfl⟩ | ⟨hr, -, rfl⟩
  · simp [hr]
  · split <;> simp [hr, stopHeld_act]
  · split <;> simp [hr, startHeld_act, startFree_act]
  · split <;> simp [hr, txAddress_act, txData_act]
  · simp [hr, rxData_act]

/-- Settles O37: the turns that move a byte are those in which ACT decides and is TX or RX. -/
theorem actIsUsedUp : Obligations.ActIsUsedUp := by
  intro s t h
  have hact := controllerStep_act h
  have hmoves : busRequest s = .transmit ∨ busRequest s = .receive ↔
      ActDecides s ∧ (s.ctl.act = actTx ∨ s.ctl.act = actRx) := by
    rw [busRequest_transmit_iff, busRequest_receive_iff, and_or_left]
  constructor
  · rintro ⟨hen, hsi, hsto, hsta, ha⟩
    exact hact.trans (if_pos (hmoves.2 ⟨⟨hen, hsi, hsto, hsta⟩, ha⟩))
  · intro hn
    refine hact.trans (if_neg fun hm => hn ?_)
    obtain ⟨⟨hen, hsi, hsto, hsta⟩, ha⟩ := hmoves.1 hm
    exact ⟨hen, hsi, hsto, hsta, ha⟩

end Sys2Proof.Machine
end

section
/-! What every step keeps of the bus: its owner follows TRACE (R139), its clock is CONFIGURE's alone (R35, R140). -/

namespace Sys2Proof.Machine

/-! ### The owner -/

/-- R119, R120, R124, R129: the controller's turn leaves owner and TRACE, or adds one event, which the owner follows. -/
theorem controllerStep_owner {s t : State} (h : controllerStep s = .next t) :
    t.bus.own = s.bus.own ∧ t.trace = s.trace ∨
      ∃ ev : BusEvent, t.trace = s.trace ++ [ev] ∧ t.bus.own = ev.owner s.bus.own := by
  rcases controllerStep_cases h with ⟨-, rfl⟩ | ⟨-, -, e, n, rfl | ⟨-, -, rfl⟩ | ⟨-, -, rfl⟩ | ⟨-, -, -, rfl⟩ |
    ⟨-, -, -, rfl⟩ | ⟨-, -, -, -, rfl⟩ | ⟨-, -, -, -, -, a, rfl⟩ | ⟨-, -, -, -, -, -, a, rfl⟩ |
    ⟨-, -, -, -, -, -, b, rfl⟩⟩
  · exact .inl ⟨rfl, rfl⟩
  · exact .inl ⟨rfl, rfl⟩
  · exact .inl ⟨rfl, rfl⟩
  all_goals exact .inr ⟨_, rfl, rfl⟩

theorem controllerStep_keeps_owner {s t : State} (h : s.bus.own = ownOfTrace s.trace)
    (ht : controllerStep s = .next t) : t.bus.own = ownOfTrace t.trace := by
  rcases controllerStep_owner ht with ⟨hown, htr⟩ | ⟨ev, htr, hown⟩
  · rw [hown, htr, h]
  · rw [hown, htr, ownOfTrace_append, h]

/-- R77, R82, R89: a command leaves owner and TRACE alone. -/
theorem exec_command_owner {w : Word} {s t : State} (h : exec (decodeCmd w) s = .next t) :
    t.bus.own = s.bus.own ∧ t.trace = s.trace := by
  rcases exec_command_next h with ⟨-, rfl⟩ | ⟨-, -, d, rfl⟩ | ⟨-, rfl⟩ <;> exact ⟨rfl, rfl⟩

theorem hostStep_owner {s t : State} (h : hostStep s = .next t) : t.bus.own = s.bus.own ∧ t.trace = s.trace := by
  rcases hostStep_command_or_frame h with ⟨w, rest, -, hw⟩ | hf
  · exact exec_command_owner (s := popHost s) hw
  · exact ⟨by rw [hf.bus], hf.trace⟩

/-- Settles O44: only the controller writes OWN and TRACE, each time the one by the other. -/
theorem ownFollowsTheTrace : Obligations.OwnFollowsTheTrace := by
  refine ⟨fun tr => ?_, rfl, rfl, fun s t h hst => ?_⟩
  · simp [ownOfTrace_append, BusEvent.owner]
  · obtain ⟨-, hturn⟩ := step_next hst
    have hu : (takeAgent s).2.bus.own = ownOfTrace (takeAgent s).2.trace := by rwa [takeAgent_bus, takeAgent_trace]
    cases ha : (takeAgent s).1 <;> rw [ha] at hturn
    · obtain ⟨hown, htr⟩ := hostStep_owner hturn
      rw [hown, htr, hu]
    · have hf := engineStep_frame hturn
      rw [hf.bus, hf.trace, hu]
    · exact controllerStep_keeps_owner hu hturn

/-! ### The clock -/

/-- The bus clock and EN are the same in both states (R35, R38). -/
structure SameClock (s t : State) : Prop where
  sclh : t.ctl.sclh = s.ctl.sclh
  scll : t.ctl.scll = s.ctl.scll
  en : t.ctl.con.en = s.ctl.con.en

theorem engineStep_clock {s t : State} (h : engineStep s = .next t) : SameClock s t := by
  rcases engineStep_next h with ⟨-, rfl⟩ | ⟨-, rfl⟩ | ⟨-, -, i, hd, hi⟩ | ⟨-, rfl⟩ | ⟨-, -, rfl⟩
  · exact ⟨rfl, rfl, rfl⟩
  · exact ⟨rfl, rfl, rfl⟩
  · exact { exec_phase_frame hd hi with }
  · rcases termStep_cases s with ⟨-, ht⟩ | ⟨-, ht⟩ <;> rw [ht]
    · exact ⟨rfl, rfl, rfl⟩
    · rw [finish_eq]; exact ⟨rfl, rfl, rfl⟩
  · rw [finish_eq]; exact ⟨rfl, rfl, rfl⟩

/-- R77, R85, R140: the host's turn that is no CONFIGURE on an idle block with a free bus. -/
theorem hostStep_configure_or_clock {s t : State} (h : hostStep s = .next t) :
    (s.bus.own = .free ∧ s.status.busy = false ∧
      ∃ w rest, s.host.program = .write .word 0x00 w :: rest ∧ w.toNat % 4 = 1) ∨ SameClock s t := by
  rcases hostStep_command_or_frame h with ⟨w, rest, hp, hw⟩ | hf
  · have hb := not_busy_of_exec_command hw
    rcases exec_command_next hw with ⟨-, rfl⟩ | ⟨hop, hown, d, rfl⟩ | ⟨-, rfl⟩
    · exact .inr ⟨rfl, rfl, rfl⟩
    · exact .inl ⟨hown, hb, w, rest, hp, hop⟩
    · exact .inr ⟨rfl, rfl, rfl⟩
  · exact .inr ⟨by rw [hf.ctl], by rw [hf.ctl], by rw [hf.ctl]⟩

theorem step_configure_or_clock {s t : State} (h : step s = .next t) :
    ((takeAgent s).1 = .host ∧ s.bus.own = .free ∧ s.status.busy = false ∧
      ∃ w rest, s.host.program = .write .word 0x00 w :: rest ∧ w.toNat % 4 = 1) ∨ SameClock (takeAgent s).2 t := by
  obtain ⟨-, hturn⟩ := step_next h
  cases ha : (takeAgent s).1 <;> rw [ha] at hturn
  · exact (hostStep_configure_or_clock hturn).imp_left fun hc => ⟨rfl, by simpa using hc⟩
  · exact .inr (engineStep_clock hturn)
  · exact .inr { controllerStep_frame hturn with }

/-- Settles O47: every other step keeps clock and EN. -/
theorem onlyConfigureSetsTheClock : Obligations.OnlyConfigureSetsTheClock := by
  refine ⟨fun s t hst hne => ?_, fun x s t h => ?_⟩
  · rcases step_configure_or_clock hst with hc | ⟨hh, hl, hen⟩
    · exact hc
    · rw [takeAgent_ctl] at hh hl hen
      simp [hh, hl, hen] at hne
  · obtain ⟨hb, hown, -⟩ := execConfigure_next (x := x) h
    exact ⟨hown, hb⟩

end Sys2Proof.Machine
end

section
/-! SUPPORT. The turns that a command still needs, and the answers it may still ask for: a grant, and at most two
releases (R119, R120, R129). -/

namespace Sys2Proof.Machine

/-! ### The turns that a command still needs -/

/-- The turns that are lost where engine and controller alternate: one where a handler ends in TERM, in which the engine
moves again, and one at the end, which makes the numbers of turns left even where the engine moves. -/
def EngineState.lost : EngineState → Nat
  | .idle => 0
  | .start | .wait => 2
  | .term | .stopWait => 1

/-- A bound on the turns that a command still needs where engine and controller alternate: its moves, and the turns
lost. -/
def turnsLeft (s : State) : Nat := remaining s + s.eng.es.lost

theorem remaining_le (s : State) : remaining s ≤ 2 * s.eng.wLen.toNat + 10 := by
  unfold remaining
  cases stage s
  case reported => dsimp only; split <;> omega
  all_goals dsimp only; omega

theorem turnsLeft_le (s : State) : turnsLeft s ≤ 2 * s.eng.wLen.toNat + 12 := by
  have hlost : s.eng.es.lost ≤ 2 := by cases s.eng.es <;> decide
  have hrem := remaining_le s
  rw [turnsLeft]
  omega

theorem SameBlock.turnsLeft_eq {s t : State} (h : SameBlock s t) : turnsLeft t = turnsLeft s := by
  rw [turnsLeft, h.remaining_eq, h.eng, turnsLeft]

theorem turnsLeft_pos {s : State} (hes : s.eng.es ≠ .idle) : 0 < turnsLeft s := by
  have hlost : 0 < s.eng.es.lost := by cases hs : s.eng.es <;> simp [EngineState.lost, hs] at hes ⊢
  exact Nat.lt_of_lt_of_le hlost (Nat.le_add_left _ _)

/-- R26: the sequencer goes on only towards its end. -/
theorem Move.lost_le {s t : State} (hm : Move s t) : t.eng.es.lost ≤ s.eng.es.lost := by
  cases hm with
  | store hes =>
    rcases afterStore_cases { s with mem := Memory.write s.mem s.eng.wPtr.toNat s.ctl.dat } with
      ⟨-, ht⟩ | ⟨-, ht⟩ | ⟨-, -, ht⟩ <;> rw [ht] <;> simp [EngineState.lost, HandlerOutcome.next, hes]
  | finish => simp [finish_es, EngineState.lost]
  | lose => exact Nat.le_refl _
  | _ => simp [EngineState.lost, HandlerOutcome.next, *]

/-- Every move uses up one of the turns. -/
theorem Move.turnsLeft_lt {s t : State} (h : Inv s) (hm : Move s t) : turnsLeft t < turnsLeft s :=
  Nat.add_lt_add_of_lt_of_le (hm.remaining_lt h) hm.lost_le

/-- R91, R118: while a command is in flight, the engine has a step where the number of turns left is even. -/
theorem turnsLeft_even_iff {s : State} (hes : s.eng.es ≠ .idle) : turnsLeft s % 2 = 0 ↔ engineEnabled s = true := by
  unfold turnsLeft remaining stage engineEnabled
  cases hs : s.eng.es
  case idle => exact absurd hs hes
  case start => simp [EngineState.lost]
  case wait =>
    cases hsta : s.ctl.con.sta
    · cases hsi : s.ctl.con.si
      · by_cases hp : s.ctl.act = actTx ∧ s.bus.firstTx = true <;> simp [EngineState.lost, hp]
      · simp only [EngineState.lost, Bool.false_eq_true, if_false, if_true, iff_true]
        split <;> omega
    · cases hsi : s.ctl.con.si <;> simp [EngineState.lost]
  case term => simp [EngineState.lost]
  case stopWait => cases hsto : s.ctl.con.sto <;> simp [EngineState.lost]

/-! ### The grant and the releases that a command may still need -/

/-- How many STOPs and repeated STARTs a command still makes from a stage on: two before its start, then its STOP. -/
def Stage.asks : Stage → Nat
  | .request | .starting => 2
  | .stopped | .idle => 0
  | .started | .addressing | .reported | .moving | .ended | .stopping => 1

theorem Stage.asks_le_two (st : Stage) : st.asks ≤ 2 := by cases st <;> decide

/-- A move asks for no more. -/
theorem Move.asks_le {s t : State} (h : Inv s) (hm : Move s t) : (stage t).asks ≤ (stage s).asks := by
  cases hm with
  | requestStart hes =>
    obtain ⟨hsi, -, -⟩ := h.quiet (by simp [hes])
    simp [stage, hes, hsi, Stage.asks]
  | placeAddress hes hsi hsta hbus => simp [stage, hes, hsi, hsta, hbus, startedBus, Stage.asks]
  | lose e n hans hes hen hsi hsta =>
    by_cases hp : s.ctl.act = actTx ∧ s.bus.firstTx = true <;>
      simp [stage, hes, hsi, hsta, arbitrationLost, hp, Stage.asks]
  | sendNext hes hsi hstat hsta hown hfirst => simp [stage, hes, hsi, hsta, hfirst, HandlerOutcome.next, Stage.asks]
  | store hes hsi hstat hsta hown hfirst =>
    rcases afterStore_cases { s with mem := Memory.write s.mem s.eng.wPtr.toNat s.ctl.dat } with
      ⟨-, ht⟩ | ⟨-, ht⟩ | ⟨-, -, ht⟩ <;> rw [ht] <;>
      simp [stage, hes, hsi, hsta, hfirst, HandlerOutcome.next, Stage.asks]
  | finish => simp [stage, finish_es, Stage.asks]
  | _ => simp_all [stage, HandlerOutcome.next, Stage.asks]

/-- The environment grants the start and allows the STOPs and repeated STARTs that the command may still ask for. -/
structure Supplied (s : State) : Prop where
  grant : (stage s).asks = 2 → ∃ gs, s.env.grants = true :: gs
  releases : ∀ i < (stage s).asks, s.env.releases[i]? = some true

theorem SameBlock.stage_eq {s t : State} (h : SameBlock s t) : stage t = stage s := by
  simp [stage, h.eng, h.ctl, h.bus]

/-- A turn that asks for neither keeps the supply. -/
theorem Supplied.of_asks_le {s t : State} (h : Supplied s) (hle : (stage t).asks ≤ (stage s).asks)
    (hg : t.env.grants = s.env.grants) (hr : t.env.releases = s.env.releases) : Supplied t := by
  have htwo := (stage s).asks_le_two
  refine ⟨fun ht => ?_, fun i hi => ?_⟩
  · rw [hg]; exact h.grant (by omega)
  · rw [hr]; exact h.releases i (by omega)

/-- R131: the next release is allowed. -/
theorem Supplied.stopGoes {s : State} (h : Supplied s) (hs : 0 < (stage s).asks) : StopGoes s := by
  have hr := h.releases 0 hs
  cases hl : s.env.releases with
  | nil => simp [hl] at hr
  | cons g rels =>
    obtain rfl : g = true := by simpa [hl] using hr
    exact .inr ⟨rels, hl⟩

/-- R119, R120: the start that is asked for is made. -/
theorem Supplied.startGoes {s : State} (h : Supplied s) (hs : (stage s).asks = 2) : StartGoes s := by
  cases hown : s.bus.own
  · exact .inl ⟨hown, h.grant hs⟩
  · exact .inr ⟨hown, h.stopGoes (by omega)⟩

/-- A start leaves a release for the STOP. -/
theorem Supplied.of_startInputs {s t : State} (h : Supplied s) (hs : (stage s).asks = 2) (ht : (stage t).asks = 1)
    (he : StartInputs s.env t.env) : Supplied t := by
  refine ⟨fun hq => by omega, fun i hi => ?_⟩
  obtain rfl : i = 0 := by omega
  rcases he.releases with hr | hr <;> rw [hr]
  · exact h.releases 0 (by omega)
  · rw [List.getElem?_tail]; exact h.releases 1 (by omega)

theorem supplied_of_no_asks {s : State} (h : (stage s).asks = 0) : Supplied s :=
  ⟨fun hq => by omega, fun i hi => by omega⟩

/-! ### The controller's turn -/

/-- R117: the answer to a byte is asked for without a grant or a release. -/
theorem txAddress_env (s : State) : (txAddress s).env = (askTx s).2.env := by
  rw [txAddress_of_answer rfl]; rfl

theorem txData_env (s : State) : (txData s).env = (askTx s).2.env := by
  rw [txData_of_answer rfl]; rfl

theorem rxData_env (s : State) : (rxData s).env = (askRx s).2.env := by
  cases ha : (askRx s).1 with
  | byte b => rw [rxData_of_byte (b := b) (u := (askRx s).2) (by rw [← ha])]; rfl
  | arb => rw [rxData_of_arb (u := (askRx s).2) (by rw [← ha])]; rfl

theorem askTx_env (s : State) :
    (askTx s).2.env.grants = s.env.grants ∧ (askTx s).2.env.releases = s.env.releases := by
  unfold askTx; split <;> exact ⟨rfl, rfl⟩

theorem askRx_env (s : State) :
    (askRx s).2.env.grants = s.env.grants ∧ (askRx s).2.env.releases = s.env.releases := by
  unfold askRx; split <;> exact ⟨rfl, rfl⟩

theorem controllerStep_bytes_env {s t : State} (hr : busRequest s = .transmit ∨ busRequest s = .receive)
    (ht : controllerStep s = .next t) : t.env.grants = s.env.grants ∧ t.env.releases = s.env.releases := by
  rcases controllerStep_next ht with ⟨hq, -⟩ | ⟨hq, -⟩ | ⟨hq, -⟩ | ⟨-, -, rfl⟩ | ⟨-, -, rfl⟩
  · simp [hq] at hr
  · simp [hq] at hr
  · simp [hq] at hr
  · split
    · rw [txAddress_env]; exact askTx_env s
    · rw [txData_env]; exact askTx_env s
  · rw [rxData_env]; exact askRx_env s

/-- A turn of the controller that changes its registers is a move. -/
theorem move_of_ctl_ne {s t : State} (h : Inv s) (ht : controllerStep s = .next t) (hne : t.ctl ≠ s.ctl) : Move s t :=
  (controllerStep_move h ht).resolve_left fun ha => hne ha.sameBlock.ctl

/-- R129, R130: a STOP that is supplied. -/
theorem stop_supplied {s t : State} (h : Inv s) (hsup : Supplied s) (hr : busRequest s = .stop)
    (hsto : s.ctl.con.sto = true) (ht : controllerStep s = .next t) : Move s t ∧ Supplied t := by
  have hes := h.stoOnly hsto
  have hstage : stage s = .stopping := by simp [stage, hes, hsto]
  obtain ⟨e, hstop⟩ := controllerStep_stopEnds hr h.free (hsup.stopGoes (by rw [hstage]; decide))
  cases hstop.symm.trans ht
  refine ⟨move_of_ctl_ne h ht fun hc => ?_, supplied_of_no_asks (by simp [stage, hes, Stage.asks])⟩
  rw [← hc] at hsto
  cases hsto

/-- R119, R120: a start that is supplied. -/
theorem start_supplied {s t : State} (h : Inv s) (hsup : Supplied s) (hr : busRequest s = .start)
    (hsi : s.ctl.con.si = false) (hsta : s.ctl.con.sta = true) (ht : controllerStep s = .next t) :
    Move s t ∧ Supplied t := by
  have hes := h.es_of_request (.inl hsta)
  have hstage : (stage s).asks = 2 := by simp [stage, hes, hsi, hsta, Stage.asks]
  obtain ⟨e, hin, hstart⟩ := controllerStep_start hr (hsup.startGoes hstage)
  cases hstart.symm.trans ht
  refine ⟨move_of_ctl_ne h ht fun hc => ?_,
    hsup.of_startInputs hstage (by simp [stage, hes, hsta, Stage.asks]) hin⟩
  rw [← hc] at hsi
  cases hsi

/-- R122, R123, R125: a byte. -/
theorem byte_supplied {s t : State} (h : Inv s) (hsup : Supplied s)
    (hr : busRequest s = .transmit ∨ busRequest s = .receive) (hact : s.ctl.act ≠ actNone)
    (ht : controllerStep s = .next t) : Move s t ∧ Supplied t := by
  obtain ⟨hg, hrel⟩ := controllerStep_bytes_env hr ht
  have hm : Move s t := move_of_ctl_ne h ht fun hc => hact (by rw [← hc, controllerStep_act ht, if_pos hr])
  exact ⟨hm, hsup.of_asks_le (hm.asks_le h) hg hrel⟩

/-- R118: with its answers supplied, a turn of the controller that has a request is a move, and leaves the answers that
the command may need after it. -/
theorem controllerStep_supplied {s t : State} (h : Inv s) (hsup : Supplied s) (ht : controllerStep s = .next t) :
    busRequest s = .nothing ∧ t = s ∨ Move s t ∧ Supplied t := by
  rcases busRequest_cases s with ⟨hr, -⟩ | ⟨-, hsi, ⟨hr, hsto⟩ | ⟨hr, -, hsta⟩ | ⟨hr, -, -, hact⟩ |
    ⟨hr, -, -, hact⟩ | ⟨hr, -⟩⟩
  · refine .inl ⟨hr, ?_⟩
    rw [(controllerStep_of_nothing hr).1] at ht
    cases ht; rfl
  · exact .inr (stop_supplied h hsup hr hsto ht)
  · exact .inr (start_supplied h hsup hr hsi hsta ht)
  · exact .inr (byte_supplied h hsup (.inl hr) (by rw [hact]; decide) ht)
  · exact .inr (byte_supplied h hsup (.inr hr) (by rw [hact]; decide) ht)
  · simp [controllerStep, hr] at ht

end Sys2Proof.Machine
end

section
/-! Every command ends (R137): of any turns, those in which engine and controller alternate are enough. -/

namespace Sys2Proof.Machine

/-! ### The turn of a command underway -/

/-- A command in flight on an enabled controller, with its answers supplied. -/
structure Underway (s : State) : Prop where
  inv : Inv s
  busy : s.status.busy = true
  en : s.ctl.con.en = true
  supplied : Supplied s

theorem Underway.es_ne_idle {s : State} (h : Underway s) : s.eng.es ≠ .idle := h.inv.busyIff.1 h.busy

theorem Underway.sameBlock {s t : State} (h : Underway s) (hi : Inv t) (hsame : SameBlock s t) (henv : t.env = s.env) :
    Underway t where
  inv := hi
  busy := by rw [hsame.status, h.busy]
  en := by rw [hsame.ctl, h.en]
  supplied := h.supplied.of_asks_le (by rw [hsame.stage_eq]) (by rw [henv]) (by rw [henv])

theorem Underway.move {s t : State} (h : Underway s) (hi : Inv t) (hm : Move s t) (hsup : Supplied t)
    (hb : t.status.busy = true) : Underway t := ⟨hi, hb, hm.en.trans h.en, hsup⟩

/-- What a turn of an agent does to the number of turns left: it uses one up, or it is lost, and then it is not the turn
of the agent that has a step. -/
def Spends (a : Agent) (n m : Nat) : Prop :=
  m < n ∨ m = n ∧ (a = .engine → n % 2 = 1) ∧ (a = .controller → n % 2 = 0)

/-- R23, R76: the host's turn is lost. -/
theorem Underway.hostTurn {s t : State} (h : Underway s) (hi : Inv t) (ht : hostStep s = .next t) :
    Spends .host (turnsLeft s) (turnsLeft t) ∧ Underway t := by
  have hsame := hostStep_sameBlock h.busy ht
  refine ⟨.inr ⟨hsame.turnsLeft_eq, nofun, nofun⟩, h.sameBlock hi hsame ?_⟩
  rcases hostStep_command_or_frame ht with ⟨w, rest, -, hw⟩ | hf
  · have hb := not_busy_of_exec_command hw
    rw [popHost_status, h.busy] at hb
    cases hb
  · exact hf.env

/-- R91: the engine's turn is a move where it has a step. -/
theorem Underway.engineTurn {s t : State} (h : Underway s) (hi : Inv t) (ht : engineStep s = .next t) :
    Spends .engine (turnsLeft s) (turnsLeft t) ∧ (t.status.busy = true → Underway t) := by
  rcases engineStep_move h.inv ht with ⟨he, rfl⟩ | hm
  · refine ⟨.inr ⟨rfl, fun _ => Nat.mod_two_ne_zero.1 fun h0 => ?_, nofun⟩, fun _ => h⟩
    rw [(turnsLeft_even_iff h.es_ne_idle).1 h0] at he
    cases he
  · have henv := (engineStep_frame ht).env
    exact ⟨.inl (hm.turnsLeft_lt h.inv),
      h.move hi hm (h.supplied.of_asks_le (hm.asks_le h.inv) (by rw [henv]) (by rw [henv]))⟩

/-- R118: the controller's turn is a move where the engine has no step. -/
theorem Underway.controllerTurn {s t : State} (h : Underway s) (hi : Inv t) (ht : controllerStep s = .next t) :
    Spends .controller (turnsLeft s) (turnsLeft t) ∧ (t.status.busy = true → Underway t) := by
  rcases controllerStep_supplied h.inv h.supplied ht with ⟨hr, rfl⟩ | ⟨hm, hsup⟩
  · refine ⟨.inr ⟨rfl, nofun, fun _ => (turnsLeft_even_iff h.es_ne_idle).2 ?_⟩, fun _ => h⟩
    refine (engineAndControllerTakeTurns.2.1 t h.inv h.busy h.en).resolve_right fun hc => ?_
    rw [(controllerStep_of_nothing hr).2] at hc
    cases hc
  · exact ⟨.inl (hm.turnsLeft_lt h.inv), h.move hi hm hsup⟩

/-- R10: a step, by the agent that moves. -/
theorem Underway.turn {s t : State} (h : Underway s) (hst : step s = .next t) :
    Spends (takeAgent s).1 (turnsLeft s) (turnsLeft t) ∧ (t.status.busy = true → Underway t) := by
  have hi := stepKeepsTheInvariant s t h.inv hst
  obtain ⟨-, hturn⟩ := step_next hst
  have hsame := (alike_takeAgent s).sameBlock
  have hu := h.sameBlock ((alike_takeAgent s).inv h.inv) hsame (takeAgent_env s)
  rw [← hsame.turnsLeft_eq]
  cases ha : (takeAgent s).1 <;> rw [ha] at hturn
  · exact (hu.hostTurn hi hturn).imp_right fun ht _ => ht
  · exact hu.engineTurn hi hturn
  · exact hu.controllerTurn hi hturn

/-! ### Turns in which engine and controller alternate -/

/-- `k` turns of the engine, each followed by one of the controller. -/
def alternating (k : Nat) : List Agent := (List.replicate k [Agent.engine, .controller]).flatten

theorem alternating_succ (k : Nat) : alternating (k + 1) = .engine :: .controller :: alternating k := rfl

/-- Among the turns of the list are enough alternating ones for a command with `n` turns left: one more than `n` where
the first of them is lost. -/
def Enough (l : List Agent) (n : Nat) : Prop :=
  ∃ k, (alternating k).Sublist l ∧ n + n % 2 ≤ 2 * k ∨
    (Agent.controller :: alternating k).Sublist l ∧ n + (n + 1) % 2 ≤ 2 * k + 1

theorem not_enough_nil {n : Nat} (hn : 0 < n) : ¬ Enough [] n := by
  rintro ⟨k, ⟨hl, hk⟩ | ⟨hl, -⟩⟩
  · cases k with
    | zero => omega
    | succ k => cases hl
  · cases hl

/-- After the first of the turns there are still enough. -/
theorem Enough.turn {a : Agent} {l : List Agent} {n m : Nat} (h : Enough (a :: l) n) (hs : Spends a n m) :
    Enough l m := by
  obtain ⟨k, ⟨hl, hk⟩ | ⟨hl, hk⟩⟩ := h
  · cases k with
    | zero =>
      have hm : m ≤ n := hs.elim Nat.le_of_lt fun hs => Nat.le_of_eq hs.1
      exact ⟨0, .inl ⟨List.nil_sublist l, by omega⟩⟩
    | succ k =>
      rw [alternating_succ] at hl
      cases hl with
      | cons _ hl => exact ⟨k + 1, .inl ⟨hl, by rcases hs with hs | ⟨rfl, -⟩ <;> omega⟩⟩
      | cons_cons _ hl =>
        refine ⟨k, .inr ⟨hl, ?_⟩⟩
        rcases hs with hs | ⟨rfl, hodd, -⟩
        · omega
        · have := hodd rfl
          omega
  · cases hl with
    | cons _ hl => exact ⟨k, .inr ⟨hl, by rcases hs with hs | ⟨rfl, -⟩ <;> omega⟩⟩
    | cons_cons _ hl =>
      refine ⟨k, .inl ⟨hl, ?_⟩⟩
      rcases hs with hs | ⟨rfl, -, heven⟩
      · omega
      · have := heven rfl
        omega

/-- The first step of a run. -/
theorem step_of_run_one {s t : State} (h : Host.Core.run core 1 s = .next t) : step s = .next t := by
  cases hst : step s with
  | next u =>
    rw [run_succ hst] at h
    exact h
  | fault f => simp [Host.Core.run, show core.step s = .fault f from hst] at h
  | refused r => simp [Host.Core.run, show core.step s = .refused r from hst] at h

theorem hostStep_schedule {s t : State} (h : hostStep s = .next t) : t.schedule = s.schedule := by
  rcases hostStep_next h with rfl | ⟨r, rfl⟩ | ⟨r, rfl⟩ | ⟨-, r, v, rfl⟩ | ⟨w, hw⟩ | ⟨a, v, -, -, rfl⟩
  · rfl
  · rfl
  · rfl
  · rfl
  · rcases exec_command_next hw with ⟨-, rfl⟩ | ⟨-, -, d, rfl⟩ | ⟨-, rfl⟩ <;> rfl
  · rfl

/-- R10: a step takes one turn of the schedule. -/
theorem step_schedule {s t : State} (h : step s = .next t) : t.schedule = (takeAgent s).2.schedule := by
  obtain ⟨-, hturn⟩ := step_next h
  cases ha : (takeAgent s).1 <;> rw [ha] at hturn
  · exact hostStep_schedule hturn
  · exact (engineStep_frame hturn).schedule
  · exact (controllerStep_frame hturn).schedule

/-- A command underway ends in a run whose turns are enough for it. -/
theorem Underway.ends {l sch : List Agent} {s : State} (h : Underway s) (hsch : s.schedule = l ++ sch)
    (hl : Enough l (turnsLeft s)) (hrun : ∀ n, n ≤ l.length → ∃ t, Host.Core.run core n s = .next t) :
    ∃ n t, n ≤ l.length ∧ Host.Core.run core n s = .next t ∧ t.status.busy = false := by
  induction l generalizing s with
  | nil => exact absurd hl (not_enough_nil (turnsLeft_pos h.es_ne_idle))
  | cons a l ih =>
    obtain ⟨t, ht⟩ := hrun 1 (by simp)
    have hst := step_of_run_one ht
    obtain ⟨hspend, hnext⟩ := h.turn hst
    cases hb : t.status.busy
    · exact ⟨1, t, by simp, ht, hb⟩
    have hagent : takeAgent s = (a, { s with schedule := l ++ sch }) := takeAgent_cons hsch
    rw [hagent] at hspend
    have hsch' : t.schedule = l ++ sch := by rw [step_schedule hst, hagent]
    have hrun' (n : Nat) (hn : n ≤ l.length) : ∃ u, Host.Core.run core n t = .next u := by
      rw [← run_succ hst]
      exact hrun (n + 1) (Nat.succ_le_succ hn)
    obtain ⟨n, u, hn, hu, hbu⟩ := ih (hnext hb) hsch' (hl.turn hspend) hrun'
    exact ⟨n + 1, u, Nat.succ_le_succ hn, (run_succ hst n).trans hu, hbu⟩

/-- Settles O50: every turn of the list uses up one of the command's turns or is lost, and the list has enough. -/
theorem everyCommandEnds : Obligations.EveryCommandEnds := by
  intro s gs rs l sch h hs hb hen hg hr hsch hl hrun
  have hsup : Supplied s := by
    refine ⟨fun _ => ⟨gs, hg⟩, fun i hi => ?_⟩
    have htwo := (stage s).asks_le_two
    obtain rfl | rfl : i = 0 ∨ i = 1 := by omega
    · rw [hr]; rfl
    · rw [hr]; rfl
  have hle := turnsLeft_le s
  exact Underway.ends ⟨h, hb, hen, hsup⟩ hsch ⟨_, .inl ⟨hl, by omega⟩⟩ hrun

end Sys2Proof.Machine
end
